-- ==== Sys2Proof/Word.lean ====
section
/-! DEFINITION. The word, byte and register-file types of the datapath (00_scope.md R4, R6). -/

namespace Sys2Proof

/-- A datapath word or a host register: 32 bits, unsigned (R4, R6). -/
abbrev Word := BitVec 32

/-- A byte of the message, of the block buffer or of an encoded operation. -/
abbrev Byte := BitVec 8

/-- A file of eight words: V, H, DIGEST and the ROM IV (10_state.md R20). -/
abbrev Words8 := Vector Word 8

end Sys2Proof
end

