-- ==== Sys2Proof/Syntax.lean ====
section
/-! DEFINITION. The operations: one constructor per row of spec/opcode_table.json, in the table's order, and the
two formats they are written in (30_encoding.md R90, R95, R96). -/

namespace Sys2Proof

/-- The two operation formats (30_encoding.md R90). -/
inductive Format where
  /-- The host transaction word, 37 bits (R95). -/
  | ht
  /-- The micro-operation code, 10 bits (R96). -/
  | uop
  deriving DecidableEq, Repr

/-- An encoded operation: a word of one of the two formats. They live on different ports, so the format is known
before the word is decoded. -/
inductive Code where
  /-- A host transaction word {we, addr[3:0], data[31:0]} (R95). -/
  | ht (word : BitVec 37)
  /-- A micro-operation code {PHASE[3:0], T[5:0]} (R96). -/
  | uop (code : BitVec 10)
  deriving DecidableEq, Repr

/-- The operations of the two maps R98 and R99. -/
inductive Instr where
  /-- START, `wr CMD, 1` (R192). -/
  | start
  /-- WR.CMD.RSVD, a write to CMD of `data` other than 1 (R199). -/
  | wrCmdRsvd (data : Word)
  /-- WRLEN.LO v (R193). -/
  | wrlenLo (v : Word)
  /-- WRLEN.HI v (R193). -/
  | wrlenHi (v : Word)
  /-- WR.NOP, a write of `data` to a read-only or reserved register (R198). -/
  | wrNop (addr : BitVec 4) (data : Word)
  /-- RDSTAT (R194). -/
  | rdstat
  /-- RDLEN.LO (R195). -/
  | rdlenLo
  /-- RDLEN.HI (R195). -/
  | rdlenHi
  /-- RDNBLK.LO (R196). -/
  | rdnblkLo
  /-- RDNBLK.HI (R196). -/
  | rdnblkHi
  /-- RDDIG k, k = 0 to 7 (R197). -/
  | rddig (k : BitVec 3)
  /-- RD.ZERO, a read of CMD or of a reserved register (R198). -/
  | rdZero (addr : BitVec 4)
  /-- IDLE, the code at which the sequencer has no micro-operation (R200). -/
  | idle
  /-- CRE.INIT (R160). -/
  | creInit
  /-- PAD.BYTE j, j = 0 to 63 (R122). -/
  | padByte (j : BitVec 6)
  /-- MSX.LOAD t, t = 0 to 15 (R140). -/
  | msxLoad (t : BitVec 4)
  /-- MSX.EXP t, t = 16 to 63 (R141). -/
  | msxExp (t : BitVec 6)
  /-- CRE.SEED (R161). -/
  | creSeed
  /-- CRE.ROUND r, r = 0 to 63 (R162). -/
  | creRound (r : BitVec 6)
  /-- CRE.FFWD (R163). -/
  | creFfwd
  /-- DIG.OUT (R180). -/
  | digOut
  deriving DecidableEq, Repr

/-- The format an operation is written in: the first twelve rows of the table are HT, the other nine UOP. -/
def Instr.format : Instr → Format
  | .start => .ht
  | .wrCmdRsvd _ => .ht
  | .wrlenLo _ => .ht
  | .wrlenHi _ => .ht
  | .wrNop _ _ => .ht
  | .rdstat => .ht
  | .rdlenLo => .ht
  | .rdlenHi => .ht
  | .rdnblkLo => .ht
  | .rdnblkHi => .ht
  | .rddig _ => .ht
  | .rdZero _ => .ht
  | .idle => .uop
  | .creInit => .uop
  | .padByte _ => .uop
  | .msxLoad _ => .uop
  | .msxExp _ => .uop
  | .creSeed => .uop
  | .creRound _ => .uop
  | .creFfwd => .uop
  | .digOut => .uop

/-- The format of an encoded operation. -/
def Code.format : Code → Format
  | .ht _ => .ht
  | .uop _ => .uop

end Sys2Proof
end

