-- ==== Sys2Proof/WellFormed.lean ====
section
/-! DEFINITION. The checks an operation's operands must meet beyond their widths (30_encoding.md R98, R99). -/

namespace Sys2Proof

/-- An operand is one its row of the operation map admits. -/
def Instr.wf : Instr → Bool
  | .start => true
  -- R98: "any other" value than 0x00000001, which is START
  | .wrCmdRsvd data => data != 1#32
  | .wrlenLo _ => true
  | .wrlenHi _ => true
  -- R98: "any other (0x1, 0x4 to 0xF)"
  | .wrNop addr _ => addr != 0#4 && addr != 2#4 && addr != 3#4
  | .rdstat => true
  | .rdlenLo => true
  | .rdlenHi => true
  | .rdnblkLo => true
  | .rdnblkHi => true
  | .rddig _ => true
  -- R98: "any other (0x0, 0x6, 0x7)"
  | .rdZero addr => addr == 0#4 || addr == 6#4 || addr == 7#4
  | .idle => true
  | .creInit => true
  | .padByte _ => true
  | .msxLoad _ => true
  -- R99: t = 16 to 63
  | .msxExp t => decide (16 ≤ t.toNat)
  | .creSeed => true
  | .creRound _ => true
  | .creFfwd => true
  | .digOut => true

end Sys2Proof
end

