-- ==== Sys2Proof/Decode.lean ====
section
/-! DEFINITION. Decoding of the two formats (30_encoding.md R95 to R99, R101, R106), then the encoder. -/

namespace Sys2Proof

/-! ## Codes and fields -/

/-- The phase codes (10_state.md R25). -/
@[simp] abbrev Phase.idle : BitVec 4 := 0x0#4
@[simp] abbrev Phase.init : BitVec 4 := 0x1#4
@[simp] abbrev Phase.padb : BitVec 4 := 0x2#4
@[simp] abbrev Phase.load : BitVec 4 := 0x3#4
@[simp] abbrev Phase.exp : BitVec 4 := 0x4#4
@[simp] abbrev Phase.seed : BitVec 4 := 0x5#4
@[simp] abbrev Phase.round : BitVec 4 := 0x6#4
@[simp] abbrev Phase.ffwd : BitVec 4 := 0x7#4
@[simp] abbrev Phase.out : BitVec 4 := 0x8#4

/-- Host register numbers (10_state.md R27); DIGESTk is number 0x8 + k. -/
@[simp] abbrev Reg.cmd : BitVec 4 := 0x0#4
@[simp] abbrev Reg.status : BitVec 4 := 0x1#4
@[simp] abbrev Reg.lenLo : BitVec 4 := 0x2#4
@[simp] abbrev Reg.lenHi : BitVec 4 := 0x3#4
@[simp] abbrev Reg.nblkLo : BitVec 4 := 0x4#4
@[simp] abbrev Reg.nblkHi : BitVec 4 := 0x5#4
@[simp] abbrev Reg.digest (k : BitVec 3) : BitVec 4 := 1#1 ++ k

/-- The command code START: the whole 32-bit value is compared (10_state.md R28, 44_host_sequencer.md R199). -/
@[simp] abbrev startCommand : Word := 0x00000001#32

/-- HT bit 36, `we`: 1 = write, 0 = read (R95). -/
def htWe (w : BitVec 37) : Bool := w.getLsbD 36

/-- HT[35:32], the register address (R95, R97 (f)). -/
def htAddr (w : BitVec 37) : BitVec 4 := w.extractLsb' 32 4

/-- HT[31:0], the data (R95). -/
def htData (w : BitVec 37) : Word := w.extractLsb' 0 32

/-- A host transaction word from its fields (R95). -/
def htWord (we : Bool) (addr : BitVec 4) (data : Word) : BitVec 37 := BitVec.ofBool we ++ addr ++ data

/-- UOP[9:6], the phase (R96). -/
def uopPhase (c : BitVec 10) : BitVec 4 := c.extractLsb' 6 4

/-- UOP[5:0], the index (R96). -/
def uopIdx (c : BitVec 10) : BitVec 6 := c.extractLsb' 0 6

/-- A micro-operation code from its fields: UOP = {PHASE[3:0], T[5:0]} (R96). -/
def uopWord (phase : BitVec 4) (idx : BitVec 6) : BitVec 10 := phase ++ idx

/-! ## The decoder -/

/-- Why a word or a string of bytes is not an operation. -/
inductive DecodeError where
  /-- One of the 827 micro-operation codes that are no position of the control program (R101). -/
  | noSuchPosition (code : BitVec 10)
  /-- A bit above the format's 37 or 10 is set: no word of the format. -/
  | bitsAboveFormat
  /-- Fewer bytes than the format takes. -/
  | tooShort
  deriving DecidableEq, Repr

/-- The map of host transactions, R98: total on the 2^37 words. -/
def decodeHt (w : BitVec 37) : Instr :=
  if htWe w then
    if htAddr w = Reg.cmd then
      if htData w = startCommand then .start else .wrCmdRsvd (htData w)
    else if htAddr w = Reg.lenLo then .wrlenLo (htData w)
    else if htAddr w = Reg.lenHi then .wrlenHi (htData w)
    else .wrNop (htAddr w) (htData w)
  else
    if htAddr w = Reg.status then .rdstat
    else if htAddr w = Reg.lenLo then .rdlenLo
    else if htAddr w = Reg.lenHi then .rdlenHi
    else if htAddr w = Reg.nblkLo then .rdnblkLo
    else if htAddr w = Reg.nblkHi then .rdnblkHi
    else if (htAddr w).getLsbD 3 then .rddig ((htAddr w).extractLsb' 0 3)
    else .rdZero (htAddr w)

/-- A micro-operation whose phase has the single index 0 (R99). -/
def onlyIdxZero (c : BitVec 10) (i : Instr) : Except DecodeError Instr :=
  if uopIdx c = 0#6 then .ok i else .error (.noSuchPosition c)

/-- The map of micro-operations, R99; every other code is refused by name (R101). -/
def decodeUop (c : BitVec 10) : Except DecodeError Instr :=
  if uopPhase c = Phase.idle then onlyIdxZero c .idle
  else if uopPhase c = Phase.init then onlyIdxZero c .creInit
  else if uopPhase c = Phase.padb then .ok (.padByte (uopIdx c))
  else if uopPhase c = Phase.load then
    if (uopIdx c).toNat < 16 then .ok (.msxLoad ((uopIdx c).extractLsb' 0 4)) else .error (.noSuchPosition c)
  else if uopPhase c = Phase.exp then
    if 16 ≤ (uopIdx c).toNat then .ok (.msxExp (uopIdx c)) else .error (.noSuchPosition c)
  else if uopPhase c = Phase.seed then onlyIdxZero c .creSeed
  else if uopPhase c = Phase.round then .ok (.creRound (uopIdx c))
  else if uopPhase c = Phase.ffwd then onlyIdxZero c .creFfwd
  else if uopPhase c = Phase.out then onlyIdxZero c .digOut
  else .error (.noSuchPosition c)

/-- The operation a word of either format stands for. -/
def decode : Code → Except DecodeError Instr
  | .ht w => .ok (decodeHt w)
  | .uop c => decodeUop c

/-! ## Words as bytes

The spec stores neither format in bytes. The byte form is the model's own: the fewest bytes that hold the word, least
significant byte first, the bits above the word 0. DESIGN CHOICE, log entry 13. -/

/-- How many bytes a word of the format takes: 37 bits in five, 10 bits in two. -/
def Format.bytes : Format → Nat
  | .ht => 5
  | .uop => 2

/-- The number a list of bytes stands for, least significant byte first. -/
def bytesToNat : List Byte → Nat
  | [] => 0
  | b :: rest => b.toNat + 256 * bytesToNat rest

/-- The `n` least significant bytes of a number, least significant first. -/
def natToBytes : Nat → Nat → List Byte
  | 0, _ => []
  | n + 1, x => BitVec.ofNat 8 x :: natToBytes n (x / 256)

/-- The word of a format with a given number; refused where the number has a bit above the format. -/
def codeOfNat (f : Format) (x : Nat) : Except DecodeError Code :=
  match f with
  | .ht => if x < 2 ^ 37 then .ok (.ht (BitVec.ofNat 37 x)) else .error .bitsAboveFormat
  | .uop => if x < 2 ^ 10 then .ok (.uop (BitVec.ofNat 10 x)) else .error .bitsAboveFormat

/-- Decoding of bytes in a given format: the operation and the bytes after it. -/
def decodeBytes (f : Format) (bs : List Byte) : Except DecodeError (Instr × List Byte) :=
  if bs.length < f.bytes then .error .tooShort
  else
    match codeOfNat f (bytesToNat (bs.take f.bytes)) with
    | .error e => .error e
    | .ok c =>
      match decode c with
      | .error e => .error e
      | .ok i => .ok (i, bs.drop f.bytes)

/-- The format of a table row by its bits in whole bytes: the 37-bit rows take more than 16 bits, the 10-bit rows
do not. -/
def tableFormat (nbits : Nat) : Format := if nbits ≤ 16 then .uop else .ht

/-- The operation the decoder reads from a table row's word `w`, numbered as spec/opcode_table.json numbers its bits. -/
def decodeTableWord (nbits w : Nat) : Option Instr :=
  match decodeBytes (tableFormat nbits) (natToBytes (tableFormat nbits).bytes w) with
  | .ok (i, _) => some i
  | .error _ => none

/-! ## The encoder -/

/-- The word of an operation, from R98 and R99; the ignored data of a read is 0, the canonical form of R95. -/
def encode : Instr → Code
  | .start => .ht (htWord true 0x0#4 0x00000001#32)
  | .wrCmdRsvd data => .ht (htWord true 0x0#4 data)
  | .wrlenLo v => .ht (htWord true 0x2#4 v)
  | .wrlenHi v => .ht (htWord true 0x3#4 v)
  | .wrNop addr data => .ht (htWord true addr data)
  | .rdstat => .ht (htWord false 0x1#4 0#32)
  | .rdlenLo => .ht (htWord false 0x2#4 0#32)
  | .rdlenHi => .ht (htWord false 0x3#4 0#32)
  | .rdnblkLo => .ht (htWord false 0x4#4 0#32)
  | .rdnblkHi => .ht (htWord false 0x5#4 0#32)
  | .rddig k => .ht (htWord false (1#1 ++ k) 0#32)
  | .rdZero addr => .ht (htWord false addr 0#32)
  | .idle => .uop 0x000#10
  | .creInit => .uop 0x040#10
  | .padByte j => .uop (0x2#4 ++ j)
  | .msxLoad t => .uop (0x3#4 ++ (0#2 ++ t))
  | .msxExp t => .uop (0x4#4 ++ t)
  | .creSeed => .uop 0x140#10
  | .creRound r => .uop (0x6#4 ++ r)
  | .creFfwd => .uop 0x1C0#10
  | .digOut => .uop 0x200#10

/-- The number of an encoded operation, bit 0 the least significant. -/
def Code.toNat : Code → Nat
  | .ht w => w.toNat
  | .uop c => c.toNat

/-- The bytes of an encoded operation (log entry 13). -/
def Code.bytes (c : Code) : List Byte := natToBytes c.format.bytes c.toNat

end Sys2Proof
end

