-- ==== Sys2Proof/Config.lean ====
section
/-! DEFINITION. What an implementation fixes and the free values. Each is opaque and has no body, so no proof
can see its value. -/

namespace Sys2Proof

/-- MSG_BYTES, the size of the message memory: the named parameter of 92_eei_decisions.md D18, 0 to 2^61 - 1
(20_memory.md R60). DESIGN CHOICE, log entry 5. -/
opaque Config.msgBytes : BitVec 61

/-- What V holds after the n-th reset event: any value (93_implementation_defined.md U4). DESIGN CHOICE, log entry 3. -/
opaque Config.freeV : Nat → Words8

/-- What H holds after the n-th reset event: any value (U4). DESIGN CHOICE, log entry 3. -/
opaque Config.freeH : Nat → Words8

/-- What W holds after the n-th reset event: any value (U4). DESIGN CHOICE, log entry 3. -/
opaque Config.freeW : Nat → Vector Word 64

/-- What BLK holds after the n-th reset event: any value (U4). DESIGN CHOICE, log entry 3. -/
opaque Config.freeBlk : Nat → Vector Byte 64

/-- What DIGEST holds after the n-th reset event: any value (U4). DESIGN CHOICE, log entry 3. -/
opaque Config.freeDigest : Nat → Words8

end Sys2Proof
end

