-- ==== Sys2Proof/Machine/State.lean ====
section
/-! DEFINITION. The state of one unit with its environment, the reasons a step can stop, and the state right after
reset (10_state.md R20 to R39). -/

namespace Sys2Proof.Machine

/-- A memory: (address, byte) pairs, addresses strictly rising, none holding what an unlisted address reads as. -/
abbrev Memory := List Host.Cell

/-- One move of the interleaving of HOST and SEQUENCER (00_scope.md R10): which agent moves, and the host's move. -/
inductive Turn where
  /-- The sequencer takes its step (44_host_sequencer.md R200). -/
  | sequencer
  /-- The host performs one transaction on the register port: an HT word (30_encoding.md R95). -/
  | transaction (ht : BitVec 37)
  /-- The host writes one byte of the message memory; it has no HT word (30_encoding.md R105). -/
  | msgWrite (addr : BitVec 61) (byte : Byte)
  /-- The environment applies the reset event (70_reset_and_hazards.md R250). -/
  | reset
  deriving DecidableEq, Repr

/-- Reasons the machine stops at an access the spec says does not exist. -/
inductive Fault where
  /-- An access to MSG at an address at or above MSG_BYTES (20_memory.md R60, R61). Raised by the message read of
  PAD.BYTE (never inside R127's domain) and by a host write to MSG. Safe. -/
  | msgAddressAbsent (addr : Nat)
  deriving DecidableEq, Repr

/-- Situations the spec gives no meaning to. -/
inductive Refusal where
  /-- An instruction that has no meaning in this model yet. Raised by exec's arms only. Safe. -/
  | notModelled (mnemonic : String)
  /-- START with LEN at or above 2^61: the bit length does not fit 64 bits (93_implementation_defined.md U1, R221).
  Raised by START. Safe. -/
  | startLengthTooLong
  /-- START with LEN above MSG_BYTES (U2, R221). Raised by START. Safe. -/
  | startLengthOverMsgBytes
  /-- PAD.BYTE outside the domain of 40_pad_framing.md R127. Raised by PAD.BYTE in states no run reaches. Safe. -/
  | padOutsideDomain
  /-- A position (PHASE, T) outside the 197 codes of the control program (30_encoding.md R101, U7). Raised by the
  sequencer's fetch and by MSX.EXP given an index below 16. Safe. -/
  | noSuchPosition (code : BitVec 10)
  /-- A host write to MSG[0..LEN-1] while BUSY = 1 (U3, 70_reset_and_hazards.md R255). Raised by the host's message
  write. Unsafe: a real host could do it, and no claim covers such a host (log entry 7). -/
  | messageWriteDuringRun
  deriving DecidableEq, Repr

/-- The unit (10_state.md R20), the environment it reads (20_memory.md R60), and the model's own three fields. -/
structure State where
  /-- V[0..7] = a..h, the working registers (R21). -/
  v : Words8
  /-- H[0..7], the hash state (R22). -/
  h : Words8
  /-- W[0..63], the message schedule (R23). -/
  w : Vector Word 64
  /-- BLK[0..63], the block buffer (R35). -/
  blk : Vector Byte 64
  /-- I, the block counter, read by the host as NBLK (R24, R33). -/
  i : BitVec 56
  /-- PHASE, the phase code (R24, R25). -/
  phase : BitVec 4
  /-- T, the index inside the phase (R24). -/
  t : BitVec 6
  /-- DONE (R26). -/
  done : Bool
  /-- LEN, the message length in bytes (R30). -/
  len : BitVec 64
  /-- DIGEST[0..7], the digest output registers (R34). -/
  digest : Words8
  /-- MSG, the message memory: the environment's (20_memory.md R60). -/
  msg : Memory
  /-- MSG_BYTES, how many bytes MSG holds: a parameter no step changes (92_eei_decisions.md D18). -/
  msgBytes : BitVec 61
  /-- The pending moves, the next first; when none is left the sequencer moves (log entry 1). -/
  turns : List Turn
  /-- The values reads have returned to the host, newest first (30_encoding.md R95; log entry 10). -/
  reads : List Word
  /-- How many reset events were taken; picks the free values of the next (U4; log entry 3). -/
  resets : Nat
  deriving DecidableEq, Repr

/-- The machine right after reset (10_state.md R37, 70_reset_and_hazards.md R250, R251). The spec leaves V, H, W,
BLK and DIGEST unspecified: zero here, DESIGN CHOICE, unsafe, log entry 2. Nothing is listed in MSG (log entry 4),
MSG_BYTES is the parameter (log entry 5), and the host has no pending move (log entry 14). -/
def State.reset : State where
  v := Vector.replicate 8 0#32
  h := Vector.replicate 8 0#32
  w := Vector.replicate 64 0#32
  blk := Vector.replicate 64 0#8
  i := 0#56
  phase := 0x0#4
  t := 0#6
  done := false
  len := 0#64
  digest := Vector.replicate 8 0#32
  msg := []
  msgBytes := Config.msgBytes
  turns := []
  reads := []
  resets := 0

end Sys2Proof.Machine
end

