-- ==== Sys2Proof/Machine/Flags.lean ====
section
/-! DEFINITION. The two flags and the STATUS register (10_state.md R26, R29). No arithmetic sets a flag. -/

namespace Sys2Proof.Machine

/-- BUSY = 1 if PHASE is not IDLE; it is not stored (R26). -/
def busy (s : State) : Bool := s.phase != Phase.idle

/-- STATUS: bit 0 BUSY, bit 1 DONE, bits 31:2 zero (R29). -/
def statusWord (s : State) : Word := 0#30 ++ BitVec.ofBool s.done ++ BitVec.ofBool (busy s)

end Sys2Proof.Machine
end

