-- ==== Sys2Proof/Machine/Operands.lean ====
section
/-! DEFINITION. Operand assembly (30_encoding.md R97) and the functions of the length (40_pad_framing.md R120, R121). -/

namespace Sys2Proof.Machine

/-! ## The length -/

/-- NB, the number of blocks of a message of L bytes (R120). -/
def nBlocks (L : Nat) : Nat := (L + 8) / 64 + 1

/-- NBYTES, the number of padded bytes (R120). -/
def nBytes (L : Nat) : Nat := 64 * nBlocks L

/-- Byte q of the 64-bit big-endian bit length 8L, q = 0 the most significant (30_encoding.md R93). -/
def lenFieldByte (L q : Nat) : Byte := BitVec.ofNat 8 ((8 * L) / 2 ^ (8 * (7 - q)) % 256)

/-- The padded byte at position p >= L: the marker, the zero fill or a byte of the length field, tested in R121's
order. -/
def padFill (L p : Nat) : Byte :=
  if p = L then 0x80#8
  else if p < nBytes L - 8 then 0x00#8
  else lenFieldByte L (p - (nBytes L - 8))

/-- The padded byte position p = 64*I + j (R97 (d)). -/
def padPos (i : BitVec 56) (j : BitVec 6) : Nat := 64 * i.toNat + j.toNat

/-- LEN with its low half replaced: {LEN[63:32], v} (44_host_sequencer.md R193). -/
def lenWithLo (len : BitVec 64) (v : Word) : BitVec 64 := len.extractLsb' 32 32 ++ v

/-- LEN with its high half replaced: {v, LEN[31:0]} (R193). -/
def lenWithHi (len : BitVec 64) (v : Word) : BitVec 64 := v ++ len.extractLsb' 0 32

/-- LEN_LO = LEN[31:0] (10_state.md R30). -/
def lenLo (len : BitVec 64) : Word := len.extractLsb' 0 32

/-- LEN_HI = LEN[63:32] (R30). -/
def lenHi (len : BitVec 64) : Word := len.extractLsb' 32 32

/-- NBLK_LO = I[31:0] (10_state.md R33). -/
def nblkLo (i : BitVec 56) : Word := i.extractLsb' 0 32

/-- NBLK_HI = zext_32(I[55:32]) (R33). -/
def nblkHi (i : BitVec 56) : Word := (i.extractLsb' 32 24).setWidth 32

/-! ## Words of a block -/

/-- A schedule word from four block bytes, the first the most significant (R97 (a), R92). -/
def beWord (b0 b1 b2 b3 : Byte) : Word := b0 ++ b1 ++ b2 ++ b3

/-- Word t of a block: bytes 4t, 4t+1, 4t+2, 4t+3 (R92). -/
def blockWord (b : Vector Byte 64) (t : BitVec 4) : Word :=
  beWord (b[4 * t.toNat]'(by omega)) (b[4 * t.toNat + 1]'(by omega))
    (b[4 * t.toNat + 2]'(by omega)) (b[4 * t.toNat + 3]'(by omega))

/-- The schedule index of MSX.LOAD t as T counts it. -/
def loadIdx (t : BitVec 4) : BitVec 6 := t.setWidth 6

/-- Entry `t` of a 64-entry file, the index a 6-bit number. -/
def entry (x : Vector Word 64) (t : BitVec 6) : Word := x[t.toNat]'(t.isLt)

/-! ## The domain -/

/-- LEN is in the domain: LEN <= 2^61 - 1 and LEN <= MSG_BYTES (44_host_sequencer.md R192). -/
abbrev LenInDomain (s : State) : Prop := s.len.toNat < 2 ^ 61 ∧ ¬ s.msgBytes.toNat < s.len.toNat

/-- padbyte is defined: LEN is in the domain and I < NB; j <= 63 by its width (40_pad_framing.md R127). -/
abbrev PadDomain (s : State) : Prop := LenInDomain s ∧ s.i.toNat < nBlocks s.len.toNat

end Sys2Proof.Machine
end

