-- ==== Sys2Proof/Machine/Ops.lean ====
section
/-! DEFINITION. The named operations on the message memory and on the registers. The hardware takes no exception
(60_exceptions.md R220, R225); the one abnormal end is the reset event, `resetEvent`. -/

namespace Sys2Proof.Machine

/-- The outcome of a step of this machine, or of a part of one that yields an `α`. -/
abbrev Result (α : Type) := Host.Outcome α Fault Refusal

/-- Do `f` with what `r` yields; a stop stays the same stop. -/
def Result.andThen {α β : Type} (r : Result α) (f : α → Result β) : Result β :=
  match r with
  | .next a => f a
  | .fault e => .fault e
  | .refused e => .refused e

/-! ## Message memory -/

/-- What an unlisted address of MSG reads as. DESIGN CHOICE, log entry 4. -/
def Memory.unlisted : Byte := 0x00#8

/-- The byte at an address. -/
def Memory.read : Memory → Nat → Byte
  | [], _ => Memory.unlisted
  | (b, x) :: rest, a => if a = b then x else Memory.read rest a

/-- Write a byte, keeping the canonical form: an entry equal to what an unlisted address reads as is not kept. -/
def Memory.write : Memory → Nat → Byte → Memory
  | [], a, v => if v = Memory.unlisted then [] else [(a, v)]
  | (b, x) :: rest, a, v =>
    if a < b then
      if v = Memory.unlisted then (b, x) :: rest else (a, v) :: (b, x) :: rest
    else if a = b then
      if v = Memory.unlisted then rest else (a, v) :: rest
    else (b, x) :: Memory.write rest a v

/-- Every listed address is above `lo` and they rise strictly, and no entry equals what an unlisted address reads as. -/
def Memory.wfAbove : Nat → Memory → Bool
  | _, [] => true
  | lo, (b, x) :: rest => decide (lo < b) && x != Memory.unlisted && Memory.wfAbove b rest

/-- The canonical form: addresses strictly rising, no entry equal to what an unlisted address reads as. -/
def Memory.wf : Memory → Bool
  | [] => true
  | (b, x) :: rest => x != Memory.unlisted && Memory.wfAbove b rest

/-- MemRead(addr, 1): the byte MSG[addr]; there is no such byte at or above MSG_BYTES (20_memory.md R61). -/
def memRead (s : State) (addr : Nat) : Result Byte :=
  if s.msgBytes.toNat ≤ addr then .fault (.msgAddressAbsent addr) else .next (s.msg.read addr)

/-- The host writes one byte of MSG (30_encoding.md R105; 70_reset_and_hazards.md R255): freely while idle and at
addresses at or above LEN; a write below LEN while busy is a move the model's host does not have (U3). -/
def hostWriteMsg (s : State) (addr : BitVec 61) (byte : Byte) : Result State :=
  if s.msgBytes.toNat ≤ addr.toNat then .fault (.msgAddressAbsent addr.toNat)
  else if busy s && decide (addr.toNat < s.len.toNat) then .refused .messageWriteDuringRun
  else .next { s with msg := s.msg.write addr.toNat byte }

/-! ## Registers and position -/

/-- (PHASE, T) <- (p, idx). -/
def setPos (s : State) (p : BitVec 4) (idx : BitVec 6) : State := { s with phase := p, t := idx }

/-- The successor inside a phase that counts T up to 63: (p, idx + 1) before it, (q, idx0) at it (R201). -/
def advance (s : State) (p : BitVec 4) (idx : BitVec 6) (q : BitVec 4) (idx0 : BitVec 6) : State :=
  if idx.toNat < 63 then setPos s p (idx + 1#6) else setPos s q idx0

/-- BLK[j] <- b. -/
def setBlk (s : State) (j : BitVec 6) (b : Byte) : State := { s with blk := s.blk.set j.toNat b (j.isLt) }

/-- W[t] <- x. -/
def setW (s : State) (t : BitVec 6) (x : Word) : State := { s with w := s.w.set t.toNat x (t.isLt) }

/-- V[0..7] <- x. -/
def setV (s : State) (x : Words8) : State := { s with v := x }

/-- H[0..7] <- x. -/
def setH (s : State) (x : Words8) : State := { s with h := x }

/-- I <- x. -/
def setI (s : State) (x : BitVec 56) : State := { s with i := x }

/-- LEN <- x. -/
def setLen (s : State) (x : BitVec 64) : State := { s with len := x }

/-- DIGEST[0..7] <- x. -/
def setDigest (s : State) (x : Words8) : State := { s with digest := x }

/-- DONE <- x. -/
def setDone (s : State) (x : Bool) : State := { s with done := x }

/-- A read returns `x` to the host and changes no state of the unit (44_host_sequencer.md R190). -/
def returnRead (s : State) (x : Word) : State := { s with reads := x :: s.reads }

/-! ## Reset -/

/-- The reset event (70_reset_and_hazards.md R250): the control state is cleared; V, H, W, BLK and DIGEST become
unspecified, each an arbitrary value it then holds (U4). MSG and MSG_BYTES are not the unit's and stay. -/
def resetEvent (s : State) : State :=
  { s with
    phase := Phase.idle, t := 0#6, i := 0#56, done := false, len := 0#64
    v := Config.freeV s.resets, h := Config.freeH s.resets, w := Config.freeW s.resets
    blk := Config.freeBlk s.resets, digest := Config.freeDigest s.resets
    resets := s.resets + 1 }

end Sys2Proof.Machine
end

