-- ==== Sys2Proof/Machine/Primitives.lean ====
section
/-! DEFINITION. The arithmetic and logic primitives (00_scope.md R8) and the six word functions (R12). Addition
modulo 2^32 is the word type's own, and so are XOR, AND and NOT. -/

namespace Sys2Proof.Machine

/-- add32: addition modulo 2^32, no overflow signalled (R8). -/
def add32 (x y : Word) : Word := x + y

/-- rotr: circular right rotation (R8). -/
def rotr (x : Word) (n : Nat) : Word := x.rotateRight n

/-- shr: logical shift right (R8). -/
def shr (x : Word) (n : Nat) : Word := x >>> n

/-- ssig0, the document's s0 (R12). -/
def ssig0 (x : Word) : Word := rotr x 7 ^^^ rotr x 18 ^^^ shr x 3

/-- ssig1, the document's s1 (R12). -/
def ssig1 (x : Word) : Word := rotr x 17 ^^^ rotr x 19 ^^^ shr x 10

/-- bsig0, the document's S0 (R12). -/
def bsig0 (x : Word) : Word := rotr x 2 ^^^ rotr x 13 ^^^ rotr x 22

/-- bsig1, the document's S1 (R12). -/
def bsig1 (x : Word) : Word := rotr x 6 ^^^ rotr x 11 ^^^ rotr x 25

/-- ch (R12). -/
def ch (x y z : Word) : Word := (x &&& y) ^^^ (~~~x &&& z)

/-- maj (R12). -/
def maj (x y z : Word) : Word := (x &&& y) ^^^ (x &&& z) ^^^ (y &&& z)

/-- Eight additions modulo 2^32, word by word, no carry between words (42_cre_compression.md R163). -/
def addWords (x y : Words8) : Words8 := Vector.ofFn fun k => add32 x[k] y[k]

/-- One round (42_cre_compression.md R162): `k` is K[r] and `w` is W[r]; all eight new values come from the old. -/
def roundFn (v : Words8) (k w : Word) : Words8 :=
  let a := v[0]
  let b := v[1]
  let c := v[2]
  let d := v[3]
  let e := v[4]
  let f := v[5]
  let g := v[6]
  let h := v[7]
  let t1 := add32 (add32 (add32 (add32 h (bsig1 e)) (ch e f g)) k) w
  let t2 := add32 (bsig0 a) (maj a b c)
  #v[add32 t1 t2, a, b, c, add32 d t1, e, f, g]

/-- The schedule recurrence (41_msx_schedule.md R141) from W[t-16], W[t-15], W[t-7], W[t-2]. -/
def expandWord (w16 w15 w7 w2 : Word) : Word :=
  add32 (add32 (add32 w16 (ssig0 w15)) w7) (ssig1 w2)

end Sys2Proof.Machine
end

