-- ==== Sys2Proof/Machine/Cre.lean ====
section
/-! DEFINITION. CRE, the compression round engine (42_cre_compression.md). -/

namespace Sys2Proof.Machine

/-- CRE.INIT (R160). -/
def execCreInit (s : State) : Result State := .next (setPos (setH s ivRom) Phase.padb 0#6)

/-- CRE.SEED (R161). -/
def execCreSeed (s : State) : Result State := .next (setPos (setV s s.h) Phase.round 0#6)

/-- CRE.ROUND r (R162). -/
def execCreRound (r : BitVec 6) (s : State) : Result State :=
  .next (advance (setV s (roundFn s.v (entry kRom r) (entry s.w r))) Phase.round r Phase.ffwd 0#6)

/-- CRE.FFWD (R163): the test uses I before the step. I is a 56-bit register; in no run does I + 1 leave it
(10_state.md R24; log entry 15). -/
def execCreFfwd (s : State) : Result State :=
  let s1 := setI (setH s (addWords s.h s.v)) (s.i + 1#56)
  if s.i.toNat + 1 < nBlocks s.len.toNat then .next (setPos s1 Phase.padb 0#6) else .next (setPos s1 Phase.out 0#6)

end Sys2Proof.Machine
end

