-- ==== Sys2Proof/Machine/Dig.lean ====
section
/-! DEFINITION. OUT, the digest output stage, and the two renderings of the digest, which are functions of whoever
reads it and change no state (43_digest_output.md). -/

namespace Sys2Proof.Machine

/-- DIG.OUT (R180). -/
def execDigOut (s : State) : Result State := .next (setPos (setDone (setDigest s s.h) true) Phase.idle 0#6)

/-- The four bytes of a word, most significant first (R181). -/
def wordBytes (x : Word) : List Byte :=
  [x.extractLsb' 24 8, x.extractLsb' 16 8, x.extractLsb' 8 8, x.extractLsb' 0 8]

/-- The digest as 32 bytes (R181; format DIGEST of 30_encoding.md R94). -/
def digestBytes (d : Words8) : List Byte := d.toList.flatMap wordBytes

/-- The alphabet of R182. -/
def hexAlphabet : List Char :=
  ['0', '1', '2', '3', '4', '5', '6', '7', '8', '9', 'a', 'b', 'c', 'd', 'e', 'f']

/-- The character at index `n` of the alphabet (R182). -/
def hexDigit (n : BitVec 4) : Char := hexAlphabet[n.toNat]'(n.isLt)

/-- The eight digits of a word, most significant nibble first, leading zeros kept (R182). -/
def hexWord (x : Word) : List Char :=
  [hexDigit (x.extractLsb' 28 4), hexDigit (x.extractLsb' 24 4), hexDigit (x.extractLsb' 20 4),
   hexDigit (x.extractLsb' 16 4), hexDigit (x.extractLsb' 12 4), hexDigit (x.extractLsb' 8 4),
   hexDigit (x.extractLsb' 4 4), hexDigit (x.extractLsb' 0 4)]

/-- hex(DIGEST): 64 characters (R182). -/
def hexDigest (d : Words8) : List Char := d.toList.flatMap hexWord

end Sys2Proof.Machine
end

