-- ==== Sys2Proof/Machine/HostRead.lean ====
section
/-! DEFINITION. The reads of the host port (44_host_sequencer.md R190, R194 to R198). A read returns a word and
changes no state of the unit, at any time. -/

namespace Sys2Proof.Machine

/-- RDSTAT (R194). -/
def execRdstat (s : State) : Result State := .next (returnRead s (statusWord s))

/-- RDLEN.LO (R195). -/
def execRdlenLo (s : State) : Result State := .next (returnRead s (lenLo s.len))

/-- RDLEN.HI (R195). -/
def execRdlenHi (s : State) : Result State := .next (returnRead s (lenHi s.len))

/-- RDNBLK.LO (R196). -/
def execRdnblkLo (s : State) : Result State := .next (returnRead s (nblkLo s.i))

/-- RDNBLK.HI (R196). -/
def execRdnblkHi (s : State) : Result State := .next (returnRead s (nblkHi s.i))

/-- RDDIG k (R197). -/
def execRddig (k : BitVec 3) (s : State) : Result State := .next (returnRead s (s.digest[k.toNat]'(k.isLt)))

/-- RD.ZERO (R198). -/
def execRdZero (_addr : BitVec 4) (s : State) : Result State := .next (returnRead s 0x00000000#32)

end Sys2Proof.Machine
end

