-- ==== Sys2Proof/Machine/HostWrite.lean ====
section
/-! DEFINITION. The writes of the host port: START, WR.CMD.RSVD, WRLEN.LO, WRLEN.HI, WR.NOP (44_host_sequencer.md
R191 to R193, R198, R199). -/

namespace Sys2Proof.Machine

/-- START (R192): accepted when idle, ignored when busy; no meaning outside the domain (U1, U2). -/
def execStart (s : State) : Result State :=
  if busy s then .next s
  else if 2 ^ 61 ≤ s.len.toNat then .refused .startLengthTooLong
  else if s.msgBytes.toNat < s.len.toNat then .refused .startLengthOverMsgBytes
  else .next (setPos (setI (setDone s false) 0#56) Phase.init 0#6)

/-- A write to LEN takes effect while BUSY = 0 and is dropped while BUSY = 1 (R193). -/
def writeLen (s : State) (x : BitVec 64) : State := if busy s then s else setLen s x

/-- WR.CMD.RSVD (R199): changes no state, whether BUSY is 0 or 1. -/
def execWrCmdRsvd (_data : Word) (s : State) : Result State := .next s

/-- WRLEN.LO v (R193). -/
def execWrlenLo (v : Word) (s : State) : Result State := .next (writeLen s (lenWithLo s.len v))

/-- WRLEN.HI v (R193). -/
def execWrlenHi (v : Word) (s : State) : Result State := .next (writeLen s (lenWithHi s.len v))

/-- WR.NOP (R198): changes no state. -/
def execWrNop (_addr : BitVec 4) (_data : Word) (s : State) : Result State := .next s

end Sys2Proof.Machine
end

