-- ==== Sys2Proof/Machine/Msx.lean ====
section
/-! DEFINITION. MSX, the message-schedule expander (41_msx_schedule.md). -/

namespace Sys2Proof.Machine

/-- MSX.LOAD t (R140). -/
def execMsxLoad (t : BitVec 4) (s : State) : Result State :=
  let s1 := setW s (loadIdx t) (blockWord s.blk t)
  if t.toNat < 15 then .next (setPos s1 Phase.load (loadIdx t + 1#6)) else .next (setPos s1 Phase.exp 16#6)

/-- MSX.EXP t (R141); an index below 16 is no position of the control program (R101). -/
def execMsxExp (t : BitVec 6) (s : State) : Result State :=
  if t.toNat < 16 then .refused (.noSuchPosition (uopWord Phase.exp t))
  else
    let x := expandWord (entry s.w (t - 16#6)) (entry s.w (t - 15#6)) (entry s.w (t - 7#6)) (entry s.w (t - 2#6))
    .next (advance (setW s t x) Phase.exp t Phase.seed 0#6)

end Sys2Proof.Machine
end

