-- ==== Sys2Proof/Machine/Pad.lean ====
section
/-! DEFINITION. PAD, the padding and framing unit (40_pad_framing.md). -/

namespace Sys2Proof.Machine

/-- padbyte(LEN, I, j) (R121): only a message byte is read from memory. -/
def padbyte (s : State) (j : BitVec 6) : Result Byte :=
  if padPos s.i j < s.len.toNat then memRead s (padPos s.i j) else .next (padFill s.len.toNat (padPos s.i j))

/-- PAD.BYTE j (R122), inside the domain of R127. -/
def execPadByte (j : BitVec 6) (s : State) : Result State :=
  if PadDomain s then
    (padbyte s j).andThen fun b => .next (advance (setBlk s j b) Phase.padb j Phase.load 0#6)
  else .refused .padOutsideDomain

end Sys2Proof.Machine
end

