-- ==== Sys2Proof/Machine/Sequencer.lean ====
section
/-! DEFINITION. The sequencer's code and its IDLE position (30_encoding.md R96; 44_host_sequencer.md R200). -/

namespace Sys2Proof.Machine

/-- UOP = {PHASE, T}: the sequencer's own registers read as one number (R96). -/
def uopCode (s : State) : BitVec 10 := uopWord s.phase s.t

/-- IDLE (R200, R201): no micro-operation; the unit does nothing and keeps all its state (60_exceptions.md R232).
DEDUCED, log entry 11. -/
def execIdle (s : State) : Result State := .next s

end Sys2Proof.Machine
end

