-- ==== Sys2Proof/Machine/Dispatch.lean ====
section
/-! DEFINITION. One arm per operation of the table (30_encoding.md R98, R99). -/

namespace Sys2Proof.Machine

def exec (i : Instr) (s : State) : Host.Outcome State Fault Refusal :=
  match i with
  | .start => Sys2Proof.Machine.execStart s
  | .wrCmdRsvd data => Sys2Proof.Machine.execWrCmdRsvd data s
  | .wrlenLo v => Sys2Proof.Machine.execWrlenLo v s
  | .wrlenHi v => Sys2Proof.Machine.execWrlenHi v s
  | .wrNop addr data => Sys2Proof.Machine.execWrNop addr data s
  | .rdstat => Sys2Proof.Machine.execRdstat s
  | .rdlenLo => Sys2Proof.Machine.execRdlenLo s
  | .rdlenHi => Sys2Proof.Machine.execRdlenHi s
  | .rdnblkLo => Sys2Proof.Machine.execRdnblkLo s
  | .rdnblkHi => Sys2Proof.Machine.execRdnblkHi s
  | .rddig k => Sys2Proof.Machine.execRddig k s
  | .rdZero addr => Sys2Proof.Machine.execRdZero addr s
  | .idle => Sys2Proof.Machine.execIdle s
  | .creInit => Sys2Proof.Machine.execCreInit s
  | .padByte j => Sys2Proof.Machine.execPadByte j s
  | .msxLoad t => Sys2Proof.Machine.execMsxLoad t s
  | .msxExp t => Sys2Proof.Machine.execMsxExp t s
  | .creSeed => Sys2Proof.Machine.execCreSeed s
  | .creRound r => Sys2Proof.Machine.execCreRound r s
  | .creFfwd => Sys2Proof.Machine.execCreFfwd s
  | .digOut => Sys2Proof.Machine.execDigOut s

end Sys2Proof.Machine
end

