-- ==== Sys2Proof/Machine/Fetch.lean ====
section
/-! DEFINITION. Which agent moves next and what it does (00_scope.md R10; 44_host_sequencer.md R200), and the
placing of a word where it is fetched next. -/

namespace Sys2Proof.Machine

/-- The next move, with the state from which it is made (the move taken off the pending list). -/
inductive Move where
  /-- An encoded operation runs: a host transaction, or the micro-operation the position names. -/
  | run (c : Code) (s : State)
  /-- The host writes a byte of the message memory. -/
  | msgWrite (addr : BitVec 61) (byte : Byte) (s : State)
  /-- The reset event. -/
  | reset (s : State)
  deriving DecidableEq, Repr

/-- A move of the sequencer: its code is its position (30_encoding.md R96). -/
def sequencerMove (s : State) : Move := .run (.uop (uopCode s)) s

/-- The next move: the first pending one, and the sequencer's where none is pending. DESIGN CHOICE, log entries 1
and 18. -/
def nextMove (s : State) : Move :=
  match s.turns with
  | [] => sequencerMove s
  | .sequencer :: rest => sequencerMove { s with turns := rest }
  | .transaction ht :: rest => .run (.ht ht) { s with turns := rest }
  | .msgWrite addr byte :: rest => .msgWrite addr byte { s with turns := rest }
  | .reset :: rest => .reset { s with turns := rest }

/-- Place a table row's word where the machine takes its next operation from (log entry 14): a host transaction
becomes the next pending move; a micro-operation code becomes the position, with the sequencer's the next move. -/
def placeWord (s : State) (nbits w : Nat) : State :=
  match tableFormat nbits with
  | .ht => { s with turns := .transaction (BitVec.ofNat 37 w) :: s.turns }
  | .uop =>
    let c := BitVec.ofNat 10 w
    { s with phase := uopPhase c, t := uopIdx c, turns := .sequencer :: s.turns }

end Sys2Proof.Machine
end

