-- ==== Sys2Proof/Machine/Step.lean ====
section
/-! DEFINITION. One atomic step of the machine (00_scope.md R10). -/

namespace Sys2Proof.Machine

/-- Decode an operation and execute it; a code that is no position of the control program is refused (R101). -/
def runCode (c : Code) (s : State) : Host.Outcome State Fault Refusal :=
  match c with
  | .ht w => exec (decodeHt w) s
  | .uop code =>
    match decodeUop code with
    | .ok i => exec i s
    | .error _ => .refused (.noSuchPosition code)

/-- One step: the next move of the interleaving of host and sequencer. -/
def step (s : State) : Host.Outcome State Fault Refusal :=
  match nextMove s with
  | .run c s1 => runCode c s1
  | .msgWrite addr byte s1 => hostWriteMsg s1 addr byte
  | .reset s1 => .next (resetEvent s1)

/-- The state with a table row's word stored where the next step takes its operation from (log entry 14). -/
def State.withFetchWord (s : State) (nbits w : Nat) : State := placeWord s nbits w

end Sys2Proof.Machine
end

