-- ==== Sys2Proof/Machine/HostAsm.lean ====
section
/-! DEFINITION. The host's assembly (30_encoding.md R103 to R105): what each line is as pending moves of the host. It
is a notation; no step of the machine reads it. -/

namespace Sys2Proof.Machine

/-- A line of a host program. `.msgsize n` sets the parameter MSG_BYTES and is no move: it is `withMsgSize`. -/
inductive AsmLine where
  /-- `wr <reg>, <value32>` (R103). -/
  | wr (reg : BitVec 4) (value : Word)
  /-- `rd <reg>` (R103). -/
  | rd (reg : BitVec 4)
  /-- `start` (R104). -/
  | start
  /-- `setlen <L>` (R104). -/
  | setlen (L : BitVec 64)
  /-- `wait`, with the number of polls the run of it takes: the spec fixes none (R104). -/
  | wait (polls : Nat)
  /-- `getdigest` (R104). -/
  | getdigest
  /-- `getnblk` (R104). -/
  | getnblk
  /-- `digest_bytes` on a message of length L placed beforehand (R104). -/
  | digestBytes (L : BitVec 64) (polls : Nat)
  /-- `.msg` and `.msgbytes`: the host's writes of MSG[0..] (R105). -/
  | msg (bytes : List Byte)
  /-- `.reset` (R105). -/
  | reset
  deriving DecidableEq, Repr

/-- HT = {1, reg, value} (R103). -/
def asmWr (reg : BitVec 4) (value : Word) : Turn := .transaction (htWord true reg value)

/-- HT = {0, reg, 0x00000000} (R103). -/
def asmRd (reg : BitVec 4) : Turn := .transaction (htWord false reg 0#32)

/-- `setlen L`: the low half, then the high half (R104). -/
def asmSetlen (L : BitVec 64) : List Turn :=
  [asmWr Reg.lenLo (L.extractLsb' 0 32), asmWr Reg.lenHi (L.extractLsb' 32 32)]

/-- `getdigest`: DIGEST0 to DIGEST7 in order (R104). -/
def asmGetdigest : List Turn :=
  [asmRd (Reg.digest 0#3), asmRd (Reg.digest 1#3), asmRd (Reg.digest 2#3), asmRd (Reg.digest 3#3),
   asmRd (Reg.digest 4#3), asmRd (Reg.digest 5#3), asmRd (Reg.digest 6#3), asmRd (Reg.digest 7#3)]

/-- The writes of bytes at successive addresses from `a`. -/
def asmMsg : Nat → List Byte → List Turn
  | _, [] => []
  | a, b :: rest => .msgWrite (BitVec.ofNat 61 a) b :: asmMsg (a + 1) rest

/-- The host's moves of a line, in order (R103 to R105). -/
def AsmLine.moves : AsmLine → List Turn
  | .wr reg value => [asmWr reg value]
  | .rd reg => [asmRd reg]
  | .start => [asmWr Reg.cmd startCommand]
  | .setlen L => asmSetlen L
  | .wait polls => List.replicate polls (asmRd Reg.status)
  | .getdigest => asmGetdigest
  | .getnblk => [asmRd Reg.nblkLo, asmRd Reg.nblkHi]
  | .digestBytes L polls =>
    asmSetlen L ++ [asmWr Reg.cmd startCommand] ++ List.replicate polls (asmRd Reg.status) ++ asmGetdigest
  | .msg bytes => asmMsg 0 bytes
  | .reset => [.reset]

/-- The host's moves of a program; sequencer moves may be interleaved anywhere (00_scope.md R10). -/
def asmMoves (lines : List AsmLine) : List Turn := lines.flatMap AsmLine.moves

/-- `.msgsize n` (R105). -/
def withMsgSize (s : State) (n : BitVec 61) : State := { s with msgBytes := n }

end Sys2Proof.Machine
end

