-- ==== Sys2Proof/Machine/Reference.lean ====
section
/-! DEFINITION. What a run computes, as functions of the message alone (44_host_sequencer.md R203): format PADDED
(30_encoding.md R91), the schedule (41_msx_schedule.md R142), the compression of a block (42_cre_compression.md R164)
and the chaining (R165). No step of the machine reads this file; claims compare the machine with it. -/

namespace Sys2Proof.Machine

/-- Byte p of the padded message of the first L bytes of `m` (R91). -/
def refPadded (m : Memory) (L p : Nat) : Byte := if p < L then m.read p else padFill L p

/-- Stream bit s of the padded message: bits most significant first within each byte (00_scope.md R7). -/
def refPaddedBit (m : Memory) (L s : Nat) : Bool := (refPadded m L (s / 8)).getLsbD (7 - s % 8)

/-- Block n of the padded message: padded bytes 64n to 64n + 63 (R92). -/
def refBlock (m : Memory) (L n : Nat) : Vector Byte 64 := Vector.ofFn fun j => refPadded m L (64 * n + j.val)

/-- The first `n` words of the schedule of a block, W[0] first (R142). -/
def refScheduleList (b : Vector Byte 64) : Nat → List Word
  | 0 => []
  | t + 1 =>
    let ws := refScheduleList b t
    ws ++ [if t < 16 then blockWord b (BitVec.ofNat 4 t)
      else expandWord (ws.getD (t - 16) 0#32) (ws.getD (t - 15) 0#32) (ws.getD (t - 7) 0#32) (ws.getD (t - 2) 0#32)]

/-- Word t of the schedule of a block (R142). -/
def refSchedule (b : Vector Byte 64) (t : Nat) : Word := (refScheduleList b (t + 1)).getD t 0#32

/-- The working registers after `n` rounds from the state `h` with the schedule of block `b` (R164). -/
def refRounds (h : Words8) (b : Vector Byte 64) : Nat → Words8
  | 0 => h
  | r + 1 => roundFn (refRounds h b r) (kRom.toList.getD r 0#32) (refSchedule b r)

/-- compress(H, W) = H + rounds64(H, W) (R164). -/
def refCompress (h : Words8) (b : Vector Byte 64) : Words8 := addWords h (refRounds h b 64)

/-- H_n: H_0 = IV and H_(i+1) = compress(H_i, schedule(block_i)) (R165, R203). -/
def refChain (m : Memory) (L : Nat) : Nat → Words8
  | 0 => ivRom
  | n + 1 => refCompress (refChain m L n) (refBlock m L n)

/-- The digest of the first L bytes of `m`: H_NB (R203). -/
def refDigest (m : Memory) (L : Nat) : Words8 := refChain m L (nBlocks L)

end Sys2Proof.Machine
end

