-- ==== Sys2Proof/Safety.lean ====
section
/-! DEFINITION. What counts as a safe state: the positions of the control program, the invariant of the control state
and the memory, the invariant of the data of a run, and how many micro-operations a run still takes. -/

namespace Sys2Proof.Machine

/-- (PHASE, T) is a position of the control program: PHASE in 0x0 to 0x8 and T in the range of 10_state.md R25. -/
def posLegal (p : BitVec 4) (t : BitVec 6) : Bool :=
  if p = Phase.padb || p = Phase.round then true
  else if p = Phase.load then decide (t.toNat < 16)
  else if p = Phase.exp then decide (16 ≤ t.toNat)
  else if p.toNat ≤ 8 then decide (t = 0#6)
  else false

/-- A phase of the per-block loop: PADB, LOAD, EXP, SEED, ROUND or FFWD (44_host_sequencer.md R201). -/
def inBlock (p : BitVec 4) : Bool := decide (2 ≤ p.toNat) && decide (p.toNat ≤ 7)

/-- The invariant of the control state and of the message memory: the position is legal (R38), the memory is in its
canonical form and inside MSG_BYTES, a run is inside the domain (R192, R61), I counts blocks up to NB (R24), and BUSY
and DONE are not both 1 (R26). -/
abbrev ControlInv (s : State) : Prop :=
  posLegal s.phase s.t = true ∧
  s.msg.wf = true ∧
  (∀ c ∈ s.msg, c.1 < s.msgBytes.toNat) ∧
  (busy s = true → LenInDomain s) ∧
  (s.phase = Phase.init → s.i = 0#56) ∧
  (inBlock s.phase = true → s.i.toNat < nBlocks s.len.toNat) ∧
  (s.phase = Phase.out → s.i.toNat = nBlocks s.len.toNat) ∧
  s.i.toNat ≤ 2 ^ 55 + 1 ∧
  (busy s = true → s.done = false)

/-- The block of the message the run is at. -/
def curBlock (s : State) : Vector Byte 64 := refBlock s.msg s.len.toNat s.i.toNat

/-- The accumulator a run has at the start of the block it is at. -/
def curChain (s : State) : Words8 := refChain s.msg s.len.toNat s.i.toNat

/-- The invariant of a run's data: every datapath register a later micro-operation of the run reads holds what the
algorithm gives it (10_state.md R38; 44_host_sequencer.md R203). -/
abbrev RunInv (s : State) : Prop :=
  ControlInv s ∧
  (inBlock s.phase = true ∨ s.phase = Phase.out → s.h = curChain s) ∧
  (s.phase = Phase.padb → ∀ (k : Nat) (hk : k < 64), k < s.t.toNat → s.blk[k] = (curBlock s)[k]) ∧
  (s.phase = Phase.load → s.blk = curBlock s) ∧
  (s.phase = Phase.load ∨ s.phase = Phase.exp →
    ∀ (k : Nat) (hk : k < 64), k < s.t.toNat → s.w[k] = refSchedule (curBlock s) k) ∧
  (s.phase = Phase.seed ∨ s.phase = Phase.round → ∀ (k : Nat) (hk : k < 64), s.w[k] = refSchedule (curBlock s) k) ∧
  (s.phase = Phase.round → s.v = refRounds (curChain s) (curBlock s) s.t.toNat) ∧
  (s.phase = Phase.ffwd → s.v = refRounds (curChain s) (curBlock s) 64)

/-- How many micro-operations of the current block are done at a position of the per-block loop (R201, R202). -/
def doneInBlock (p : BitVec 4) (t : BitVec 6) : Nat :=
  if p = Phase.padb then t.toNat
  else if p = Phase.load then 64 + t.toNat
  else if p = Phase.exp then 64 + t.toNat
  else if p = Phase.seed then 128
  else if p = Phase.round then 129 + t.toNat
  else 193

/-- How many micro-operations the run still takes, DIG.OUT included; 0 when idle (R202). -/
def remaining (s : State) : Nat :=
  if s.phase = Phase.idle then 0
  else if s.phase = Phase.init then 2 + 194 * nBlocks s.len.toNat
  else if s.phase = Phase.out then 1
  else 194 * (nBlocks s.len.toNat - s.i.toNat) + 1 - doneInBlock s.phase s.t

end Sys2Proof.Machine
end

