-- ==== Sys2Proof/Certificates/Slice0/Obligations.lean ====
section
/-! DEFINITION. The statements, from the numbered rules of spec/. Each says in its docstring which rule it formalises;
where a clause is the model's choice the docstring names the log entry. -/

open Sys2Proof Sys2Proof.Machine

/-! ## Encoding -/

/-- Decoding the word of a well-formed operation gives the operation, every operand at every value (R98, R99, R106). -/
def Obligations.DecodeEncodeRoundTrip : Prop :=
  ∀ i : Instr, i.wf = true → decode (encode i) = .ok i

/-- The same through bytes, whatever bytes follow (the byte form is the model's: log entry 13). -/
def Obligations.ByteDecodeEncodeRoundTrip : Prop :=
  ∀ (i : Instr) (rest : List Byte), i.wf = true →
    decodeBytes i.format ((encode i).bytes ++ rest) = .ok (i, rest)

/-- R106, the other direction: a micro-operation code and a write word come back as they were; a read word comes back
with its ignored data 0, the canonical form of R95. -/
def Obligations.EncodeDecodeReturnsWord : Prop :=
  (∀ (c : BitVec 10) (i : Instr), decodeUop c = .ok i → encode i = .uop c) ∧
  (∀ w : BitVec 37, w.getLsbD 36 = true → encode (decodeHt w) = .ht w) ∧
  (∀ w : BitVec 37, w.getLsbD 36 = false → encode (decodeHt w) = .ht (w.extractLsb' 32 5 ++ 0#32))

/-- Whatever decodes is well formed and of the format it was decoded from (R98, R99). -/
def Obligations.DecodedOperationsAreWellFormed : Prop :=
  ∀ (c : Code) (i : Instr), decode c = .ok i → i.wf = true ∧ i.format = c.format

/-- R98: the masks and matches of the host map in priority order, the first row that matches applies; every word
matches a row. -/
def Obligations.HostDecodeIsFirstMatchingRow : Prop :=
  ∀ w : BitVec 37,
    decodeHt w =
      if w &&& 0x1FFFFFFFFF#37 = 0x1000000001#37 then .start
      else if w &&& 0x1F00000000#37 = 0x1000000000#37 then .wrCmdRsvd (w.extractLsb' 0 32)
      else if w &&& 0x1F00000000#37 = 0x1200000000#37 then .wrlenLo (w.extractLsb' 0 32)
      else if w &&& 0x1F00000000#37 = 0x1300000000#37 then .wrlenHi (w.extractLsb' 0 32)
      else if w &&& 0x1000000000#37 = 0x1000000000#37 then .wrNop (w.extractLsb' 32 4) (w.extractLsb' 0 32)
      else if w &&& 0x1F00000000#37 = 0x0100000000#37 then .rdstat
      else if w &&& 0x1F00000000#37 = 0x0200000000#37 then .rdlenLo
      else if w &&& 0x1F00000000#37 = 0x0300000000#37 then .rdlenHi
      else if w &&& 0x1F00000000#37 = 0x0400000000#37 then .rdnblkLo
      else if w &&& 0x1F00000000#37 = 0x0500000000#37 then .rdnblkHi
      else if w &&& 0x1800000000#37 = 0x0800000000#37 then .rddig (w.extractLsb' 32 3)
      else .rdZero (w.extractLsb' 32 4)

/-- R99: the masks and matches of the micro-operation map with its index ranges. R101: each of the 827 other codes has
no meaning, and is refused under its own number; where that refusal is raised is the model's reading (log entry 8). -/
def Obligations.UopDecodeIsOperationMap : Prop :=
  ∀ c : BitVec 10,
    decodeUop c =
      if c &&& 0x3FF#10 = 0x000#10 then .ok .idle
      else if c &&& 0x3FF#10 = 0x040#10 then .ok .creInit
      else if c &&& 0x3C0#10 = 0x080#10 then .ok (.padByte (c.extractLsb' 0 6))
      else if c &&& 0x3F0#10 = 0x0C0#10 then .ok (.msxLoad (c.extractLsb' 0 4))
      else if c &&& 0x3C0#10 = 0x100#10 ∧ 16 ≤ (c.extractLsb' 0 6).toNat then .ok (.msxExp (c.extractLsb' 0 6))
      else if c &&& 0x3FF#10 = 0x140#10 then .ok .creSeed
      else if c &&& 0x3C0#10 = 0x180#10 then .ok (.creRound (c.extractLsb' 0 6))
      else if c &&& 0x3FF#10 = 0x1C0#10 then .ok .creFfwd
      else if c &&& 0x3FF#10 = 0x200#10 then .ok .digOut
      else .error (.noSuchPosition c)

/-- Words of 95_test_vectors.md V16 and codes of R99 stand for the operations listed beside them. -/
def Obligations.SampleWordsDecode : Prop :=
  decode (.ht 0x1000000001#37) = .ok .start ∧
  decode (.ht 0x1000000003#37) = .ok (.wrCmdRsvd 3#32) ∧
  decode (.ht 0x1200000038#37) = .ok (.wrlenLo 0x38#32) ∧
  decode (.ht 0x13FFFFFFFF#37) = .ok (.wrlenHi 0xFFFFFFFF#32) ∧
  decode (.ht 0x18FFFFFFFF#37) = .ok (.wrNop 8#4 0xFFFFFFFF#32) ∧
  decode (.ht 0x01DEADBEEF#37) = .ok .rdstat ∧
  decode (.ht 0x0B00000000#37) = .ok (.rddig 3#3) ∧
  decode (.ht 0x0600000000#37) = .ok (.rdZero 6#4) ∧
  decode (.uop 0x0BF#10) = .ok (.padByte 63#6) ∧
  decode (.uop 0x0CF#10) = .ok (.msxLoad 15#4) ∧
  decode (.uop 0x110#10) = .ok (.msxExp 16#6) ∧
  decode (.uop 0x180#10) = .ok (.creRound 0#6) ∧
  decode (.uop 0x200#10) = .ok .digOut

/-! ## The step -/

/-- R200, R10: the sequencer's step is the micro-operation its position names, and a host transaction's step is the
operation its word names; around it the step only takes the move off the pending list (log entry 1). -/
def Obligations.StepRunsDecodedOperation : Prop :=
  (∀ (s : State) (i : Instr), s.turns = [] → decodeUop (s.phase ++ s.t) = .ok i → step s = exec i s) ∧
  (∀ (s : State) (rest : List Turn) (i : Instr), s.turns = .sequencer :: rest →
    decodeUop (s.phase ++ s.t) = .ok i → step s = exec i { s with turns := rest }) ∧
  (∀ (s : State) (rest : List Turn) (w : BitVec 37), s.turns = .transaction w :: rest →
    step s = exec (decodeHt w) { s with turns := rest })

/-- R101: at a position outside the 197 codes the sequencer has no step, and MSX.EXP has none for an index below 16.
The refusal is the spec's treatment U7 (log entry 8). -/
def Obligations.UnusedPositionsAreRefused : Prop :=
  (∀ s : State, s.turns = [] ∨ (∃ rest, s.turns = .sequencer :: rest) → posLegal s.phase s.t = false →
    step s = .refused (.noSuchPosition (s.phase ++ s.t))) ∧
  (∀ (s : State) (t : BitVec 6), t.toNat < 16 →
    exec (.msxExp t) s = .refused (.noSuchPosition (0x4#4 ++ t)))

/-- A word placed by `withFetchWord` is what the next step runs (the placing is the model's: log entry 14). -/
def Obligations.PlacedWordIsFetchedNext : Prop :=
  ∀ (s : State) (nbits w : Nat) (i : Instr), decodeTableWord nbits w = some i →
    step (s.withFetchWord nbits w) =
      if nbits ≤ 16 then
        exec i { s with phase := (BitVec.ofNat 10 w).extractLsb' 6 4, t := (BitVec.ofNat 10 w).extractLsb' 0 6 }
      else exec i s

/-! ## Host transactions -/

/-- R192: START. The refusals outside the domain are the spec's treatments U1 and U2 (log entry 6). -/
def Obligations.StartBeginsRun : Prop :=
  decode (.ht 0x1000000001#37) = .ok .start ∧
  ∀ s : State,
    (s.phase = 0x0#4 → s.len.toNat ≤ 2 ^ 61 - 1 → s.len.toNat ≤ s.msgBytes.toNat →
      exec .start s = .next { s with done := false, i := 0#56, phase := 0x1#4, t := 0#6 }) ∧
    (s.phase ≠ 0x0#4 → exec .start s = .next s) ∧
    (s.phase = 0x0#4 → 2 ^ 61 ≤ s.len.toNat → exec .start s = .refused .startLengthTooLong) ∧
    (s.phase = 0x0#4 → s.len.toNat ≤ 2 ^ 61 - 1 → s.msgBytes.toNat < s.len.toNat →
      exec .start s = .refused .startLengthOverMsgBytes)

/-- R193: WRLEN.LO and WRLEN.HI replace one half of LEN while idle and are dropped while busy. -/
def Obligations.WriteLenReplacesHalf : Prop :=
  ∀ v : Word,
    decode (.ht (0x12#5 ++ v)) = .ok (.wrlenLo v) ∧ decode (.ht (0x13#5 ++ v)) = .ok (.wrlenHi v) ∧
    ∀ s : State,
      (s.phase = 0x0#4 →
        exec (.wrlenLo v) s = .next { s with len := s.len.extractLsb' 32 32 ++ v } ∧
        exec (.wrlenHi v) s = .next { s with len := v ++ s.len.extractLsb' 0 32 }) ∧
      (s.phase ≠ 0x0#4 → exec (.wrlenLo v) s = .next s ∧ exec (.wrlenHi v) s = .next s)

/-- R199: a write to CMD of any value other than 0x00000001 changes nothing, idle or busy. -/
def Obligations.ReservedCommandDoesNothing : Prop :=
  ∀ (v : Word) (s : State), v ≠ 0x00000001#32 →
    decode (.ht (0x10#5 ++ v)) = .ok (.wrCmdRsvd v) ∧ exec (.wrCmdRsvd v) s = .next s

/-- R198: a write to STATUS, NBLK, a reserved register or DIGEST changes nothing; a read of CMD or of a reserved
register returns 0 and changes nothing. -/
def Obligations.AccessesWithNoFunction : Prop :=
  (∀ (addr : BitVec 4) (v : Word) (s : State), addr = 0x1#4 ∨ 0x4 ≤ addr.toNat →
    decode (.ht (1#1 ++ addr ++ v)) = .ok (.wrNop addr v) ∧ exec (.wrNop addr v) s = .next s) ∧
  (∀ (addr : BitVec 4) (v : Word) (s : State), addr = 0x0#4 ∨ addr = 0x6#4 ∨ addr = 0x7#4 →
    decode (.ht (0#1 ++ addr ++ v)) = .ok (.rdZero addr) ∧
    exec (.rdZero addr) s = .next { s with reads := 0x00000000#32 :: s.reads })

/-- R194: RDSTAT returns DONE in bit 1, BUSY in bit 0 and zeros above, and changes nothing. -/
def Obligations.ReadStatusReturnsFlags : Prop :=
  (∀ v : Word, decode (.ht (0x01#5 ++ v)) = .ok .rdstat) ∧
  ∀ s : State, ∃ x : Word,
    exec .rdstat s = .next { s with reads := x :: s.reads } ∧
    x.getLsbD 0 = decide (s.phase ≠ 0x0#4) ∧ x.getLsbD 1 = s.done ∧ ∀ k, 2 ≤ k → x.getLsbD k = false

/-- R29: in a state that meets the invariant STATUS reads 1 while a run is in progress, 2 after one, 0 before any, and
never 3. -/
def Obligations.StatusIsNeverBusyAndDone : Prop :=
  ∀ s : State, ControlInv s →
    exec .rdstat s =
      .next { s with
        reads := (if s.phase ≠ 0x0#4 then 0x00000001#32 else if s.done then 0x00000002#32 else 0x00000000#32)
          :: s.reads }

/-- R195: RDLEN.LO and RDLEN.HI return the halves of LEN and change nothing. -/
def Obligations.ReadLenReturnsHalves : Prop :=
  (∀ v : Word, decode (.ht (0x02#5 ++ v)) = .ok .rdlenLo ∧ decode (.ht (0x03#5 ++ v)) = .ok .rdlenHi) ∧
  ∀ s : State,
    exec .rdlenLo s = .next { s with reads := BitVec.ofNat 32 (s.len.toNat % 2 ^ 32) :: s.reads } ∧
    exec .rdlenHi s = .next { s with reads := BitVec.ofNat 32 (s.len.toNat / 2 ^ 32) :: s.reads }

/-- R196, R33: RDNBLK.LO returns I[31:0] and RDNBLK.HI zext_32(I[55:32]); they change nothing. -/
def Obligations.ReadNblkReturnsBlockCounter : Prop :=
  (∀ v : Word, decode (.ht (0x04#5 ++ v)) = .ok .rdnblkLo ∧ decode (.ht (0x05#5 ++ v)) = .ok .rdnblkHi) ∧
  ∀ s : State,
    exec .rdnblkLo s = .next { s with reads := BitVec.ofNat 32 (s.i.toNat % 2 ^ 32) :: s.reads } ∧
    exec .rdnblkHi s = .next { s with reads := BitVec.ofNat 32 (s.i.toNat / 2 ^ 32) :: s.reads }

/-- R197: RDDIG k returns DIGEST[k] and changes nothing, busy or not. -/
def Obligations.ReadDigestReturnsWord : Prop :=
  (∀ (k : BitVec 3) (v : Word), decode (.ht (0#1 ++ (1#1 ++ k) ++ v)) = .ok (.rddig k)) ∧
  ∀ (k : BitVec 3) (s : State),
    exec (.rddig k) s = .next { s with reads := s.digest[k.toNat]'(k.isLt) :: s.reads }

/-- R190, R27: whatever the read word, the read completes, changes no state of the unit, and returns the register its
address names in the map. -/
def Obligations.EveryReadFollowsRegisterMap : Prop :=
  ∀ (addr : BitVec 4) (v : Word) (s : State), ∃ x : Word,
    exec (decodeHt (0#1 ++ addr ++ v)) s = .next { s with reads := x :: s.reads } ∧
    (addr = 0x0#4 → x = 0#32) ∧
    (addr = 0x1#4 → x = statusWord s) ∧
    (addr = 0x2#4 → x = s.len.extractLsb' 0 32) ∧
    (addr = 0x3#4 → x = s.len.extractLsb' 32 32) ∧
    (addr = 0x4#4 → x = s.i.extractLsb' 0 32) ∧
    (addr = 0x5#4 → x = 0#8 ++ s.i.extractLsb' 32 24) ∧
    (addr = 0x6#4 ∨ addr = 0x7#4 → x = 0#32) ∧
    (∀ (k : Nat) (hk : k < 8), addr.toNat = 0x8 + k → x = s.digest[k])

/-- R191: a write has an effect only for CMD and LEN; every other write completes and changes nothing, and no write
returns a value. -/
def Obligations.OnlyCmdAndLenWritesAct : Prop :=
  (∀ (addr : BitVec 4) (v : Word) (s : State), addr ≠ 0x0#4 → addr ≠ 0x2#4 → addr ≠ 0x3#4 →
    exec (decodeHt (1#1 ++ addr ++ v)) s = .next s) ∧
  (∀ (addr : BitVec 4) (v : Word) (s t : State), exec (decodeHt (1#1 ++ addr ++ v)) s = .next t → t.reads = s.reads)

/-- R205: while BUSY = 1 every host transaction completes and changes nothing of the unit or of the memory: only what
was returned to the host grows. -/
def Obligations.HostCannotDisturbRun : Prop :=
  ∀ (i : Instr) (s : State), i.format = .ht → s.phase ≠ 0x0#4 →
    exec i s = .next s ∨ ∃ x : Word, exec i s = .next { s with reads := x :: s.reads }

/-- R224: during a run a host transaction and a micro-operation commute, but for reads of what DIG.OUT or CRE.FFWD
writes and for START and LEN writes against DIG.OUT. -/
def Obligations.HostAndSequencerCommute : Prop :=
  ∀ (h u : Instr) (s : State), h.format = .ht → u.format = .uop → s.phase ≠ 0x0#4 →
    (u = .digOut →
      h ≠ .start ∧ h ≠ .rdstat ∧ (∀ v, h ≠ .wrlenLo v) ∧ (∀ v, h ≠ .wrlenHi v) ∧ ∀ k, h ≠ .rddig k) →
    (u = .creFfwd → h ≠ .rdnblkLo ∧ h ≠ .rdnblkHi) →
    Result.andThen (exec h s) (exec u) = Result.andThen (exec u s) (exec h)

/-- R104, R66: `setlen L` leaves LEN = L, in two steps, whatever LEN held. -/
def Obligations.SetlenStoresLength : Prop :=
  ∀ (s : State) (L : BitVec 64) (rest : List Turn), s.phase = 0x0#4 →
    s.turns = (AsmLine.setlen L).moves ++ rest →
    core.run 2 s = .next { s with len := L, turns := rest }

/-! ## The padding unit -/

/-- R120: NB = (L + 8) div 64 + 1 and NBYTES = 64 * NB, the rule's own formulas; and what the rule infers from them:
NB is the ceiling of (8L + 65) / 512 (marked there 'derived: from the document's formula'), it is at least 1, at most
2^55 + 1 inside the domain, and NBYTES - 8 > L, so the length field starts above byte L (marked 'derived: from the
definition of div'). -/
def Obligations.BlockCountIsCeiling : Prop :=
  ∀ L : Nat, nBlocks L = (L + 8) / 64 + 1 ∧ nBlocks L = (8 * L + 65 + 511) / 512 ∧ 1 ≤ nBlocks L ∧
    (L ≤ 2 ^ 61 - 1 → nBlocks L ≤ 2 ^ 55 + 1) ∧ nBytes L = 64 * nBlocks L ∧ L < nBytes L - 8

/-- R124, R125: how many blocks by L mod 64, and where one byte more takes one block more. -/
def Obligations.BlockCountBoundary : Prop :=
  (∀ L : Nat, nBlocks L = if L % 64 ≤ 55 then L / 64 + 1 else L / 64 + 2) ∧
  (∀ L : Nat, nBlocks (L + 1) = if L % 64 = 55 then nBlocks L + 1 else nBlocks L) ∧
  nBlocks 55 = 1 ∧ nBlocks 56 = 2

/-- R121, R122: PAD.BYTE j inside the domain of R127 stores the padded byte, moves on, and changes nothing else. -/
def Obligations.PadByteStoresPaddedByte : Prop :=
  (∀ j : BitVec 6, decode (.uop (0x2#4 ++ j)) = .ok (.padByte j)) ∧
  ∀ (s : State) (j : BitVec 6),
    s.len.toNat ≤ 2 ^ 61 - 1 → s.len.toNat ≤ s.msgBytes.toNat → s.i.toNat < (s.len.toNat + 8) / 64 + 1 →
    exec (.padByte j) s =
      let L := s.len.toNat
      let p := 64 * s.i.toNat + j.toNat
      let nbytes := 64 * ((L + 8) / 64 + 1)
      let q := p - (nbytes - 8)
      let b : Byte :=
        if p < L then s.msg.read p
        else if p = L then 0x80#8
        else if p < nbytes - 8 then 0x00#8
        else BitVec.ofNat 8 (8 * L / 2 ^ (8 * (7 - q)))
      .next { s with
        blk := s.blk.set j.toNat b (j.isLt)
        phase := if j.toNat < 63 then 0x2#4 else 0x3#4
        t := if j.toNat < 63 then BitVec.ofNat 6 (j.toNat + 1) else 0#6 }

/-- R91: the bits PAD.BYTE stores are the document's layout of the padded message: stream bits [0, 8L) the message's,
bit 8L one, then zeros, and the last 64 the big-endian 8L; between 7 and 511 zeros. -/
def Obligations.PaddedBitLayout : Prop :=
  ∀ (s t : State) (j : BitVec 6) (q : Nat), q < 8 →
    s.len.toNat ≤ 2 ^ 61 - 1 → s.len.toNat ≤ s.msgBytes.toNat → s.i.toNat < nBlocks s.len.toNat →
    exec (.padByte j) s = .next t →
      let L := s.len.toNat
      let n := 512 * nBlocks L
      let x := 8 * (64 * s.i.toNat + j.toNat) + q
      let bit := (t.blk[j.toNat]'(j.isLt)).getLsbD (7 - q)
      (x < 8 * L → bit = (s.msg.read (x / 8)).getLsbD (7 - x % 8)) ∧
      (x = 8 * L → bit = true) ∧
      (8 * L < x → x < n - 64 → bit = false) ∧
      (n - 64 ≤ x → x < n ∧ bit = (8 * L).testBit (63 - (x - (n - 64)))) ∧
      7 ≤ n - 64 - 8 * L - 1 ∧ n - 64 - 8 * L - 1 ≤ 511

/-- R127: outside its domain PAD.BYTE has no meaning. That the model refuses is its choice (log entry 9). -/
def Obligations.PadByteOutsideDomainIsRefused : Prop :=
  ∀ (s : State) (j : BitVec 6),
    2 ^ 61 ≤ s.len.toNat ∨ s.msgBytes.toNat < s.len.toNat ∨ nBlocks s.len.toNat ≤ s.i.toNat →
    exec (.padByte j) s = .refused .padOutsideDomain

/-! ## The schedule unit -/

/-- R140: MSX.LOAD t forms W[t] from four bytes, the first the most significant. -/
def Obligations.MsxLoadFormsWord : Prop :=
  (∀ t : BitVec 4, decode (.uop (0x3#4 ++ (0#2 ++ t))) = .ok (.msxLoad t)) ∧
  ∀ (s : State) (t : BitVec 4),
    exec (.msxLoad t) s =
      let x : Word := BitVec.ofNat 32 ((s.blk[4 * t.toNat]'(by omega)).toNat * 2 ^ 24 +
        (s.blk[4 * t.toNat + 1]'(by omega)).toNat * 2 ^ 16 + (s.blk[4 * t.toNat + 2]'(by omega)).toNat * 2 ^ 8 +
        (s.blk[4 * t.toNat + 3]'(by omega)).toNat)
      .next { s with
        w := s.w.set t.toNat x (by omega)
        phase := if t.toNat < 15 then 0x3#4 else 0x4#4
        t := if t.toNat < 15 then BitVec.ofNat 6 (t.toNat + 1) else 16#6 }

/-- R141: MSX.EXP t, t = 16 to 63, computes W[t] from W[t-16], W[t-15], W[t-7] and W[t-2]. -/
def Obligations.MsxExpComputesRecurrence : Prop :=
  (∀ t : BitVec 6, 16 ≤ t.toNat → decode (.uop (0x4#4 ++ t)) = .ok (.msxExp t)) ∧
  ∀ (s : State) (t : BitVec 6) (_ : 16 ≤ t.toNat),
    exec (.msxExp t) s =
      let w16 := s.w[t.toNat - 16]'(by omega)
      let w15 := s.w[t.toNat - 15]'(by omega)
      let w7 := s.w[t.toNat - 7]'(by omega)
      let w2 := s.w[t.toNat - 2]'(by omega)
      let s0 := w15.rotateRight 7 ^^^ w15.rotateRight 18 ^^^ (w15 >>> 3)
      let s1 := w2.rotateRight 17 ^^^ w2.rotateRight 19 ^^^ (w2 >>> 10)
      .next { s with
        w := s.w.set t.toNat (BitVec.ofNat 32 (w16.toNat + s0.toNat + w7.toNat + s1.toNat)) (by omega)
        phase := if t.toNat < 63 then 0x4#4 else 0x5#4
        t := if t.toNat < 63 then BitVec.ofNat 6 (t.toNat + 1) else 0#6 }

/-! ## The compression unit -/

/-- R160: CRE.INIT loads H with IV (the words of R31) and moves to (PADB, 0). -/
def Obligations.CreInitLoadsIv : Prop :=
  decode (.uop 0x040#10) = .ok .creInit ∧
  ∀ s : State,
    exec .creInit s = .next { s with
      h := #v[0x6a09e667#32, 0xbb67ae85#32, 0x3c6ef372#32, 0xa54ff53a#32,
              0x510e527f#32, 0x9b05688c#32, 0x1f83d9ab#32, 0x5be0cd19#32]
      phase := 0x2#4, t := 0#6 }

/-- R161: CRE.SEED copies H into V, leaves H, and moves to (ROUND, 0). -/
def Obligations.CreSeedCopiesAccumulator : Prop :=
  decode (.uop 0x140#10) = .ok .creSeed ∧
  ∀ s : State, exec .creSeed s = .next { s with v := s.h, phase := 0x6#4, t := 0#6 }

/-- R162: CRE.ROUND r, the round function on the values before the step, with K[r] and W[r]. -/
def Obligations.CreRoundMixesRegisters : Prop :=
  (∀ r : BitVec 6, decode (.uop (0x6#4 ++ r)) = .ok (.creRound r)) ∧
  ∀ (s : State) (r : BitVec 6),
    exec (.creRound r) s =
      let a := s.v[0]
      let b := s.v[1]
      let c := s.v[2]
      let d := s.v[3]
      let e := s.v[4]
      let f := s.v[5]
      let g := s.v[6]
      let h := s.v[7]
      let s1 := e.rotateRight 6 ^^^ e.rotateRight 11 ^^^ e.rotateRight 25
      let chv := (e &&& f) ^^^ (~~~e &&& g)
      let t1 : Word := BitVec.ofNat 32
        (h.toNat + s1.toNat + chv.toNat + (kRom[r.toNat]'(r.isLt)).toNat + (s.w[r.toNat]'(r.isLt)).toNat)
      let s0 := a.rotateRight 2 ^^^ a.rotateRight 13 ^^^ a.rotateRight 22
      let majv := (a &&& b) ^^^ (a &&& c) ^^^ (b &&& c)
      let t2 : Word := BitVec.ofNat 32 (s0.toNat + majv.toNat)
      .next { s with
        v := #v[BitVec.ofNat 32 (t1.toNat + t2.toNat), a, b, c, BitVec.ofNat 32 (d.toNat + t1.toNat), e, f, g]
        phase := if r.toNat < 63 then 0x6#4 else 0x7#4
        t := if r.toNat < 63 then BitVec.ofNat 6 (r.toNat + 1) else 0#6 }

/-- R163: CRE.FFWD adds V into H word by word, counts the block, and goes to the next block or to OUT by the value of
I before the step. I is below 2^56 - 1 in every state of a run (R24); at that value the counter wraps (log entry 15). -/
def Obligations.CreFfwdAddsAndCounts : Prop :=
  decode (.uop 0x1C0#10) = .ok .creFfwd ∧
  ∀ s : State,
    exec .creFfwd s = .next { s with
      h := #v[s.h[0] + s.v[0], s.h[1] + s.v[1], s.h[2] + s.v[2], s.h[3] + s.v[3],
              s.h[4] + s.v[4], s.h[5] + s.v[5], s.h[6] + s.v[6], s.h[7] + s.v[7]]
      i := s.i + 1#56
      phase := if s.i.toNat + 1 < (s.len.toNat + 8) / 64 + 1 then 0x2#4 else 0x8#4
      t := 0#6 }

/-- R31, R32: IV[k] and K[r] are the first 32 bits of the fractional parts of the square and cube roots of the first
primes, the spec's own remark on where the tables come from. -/
def Obligations.RomWordsArePrimeRoots : Prop :=
  (∀ (k : Nat) (hk : k < 8), ∀ p, [2, 3, 5, 7, 11, 13, 17, 19][k]? = some p →
    ∃ n, n < 8 ∧ (n * 2 ^ 32 + ivRom[k].toNat) ^ 2 ≤ p * 2 ^ 64 ∧ p * 2 ^ 64 < (n * 2 ^ 32 + ivRom[k].toNat + 1) ^ 2) ∧
  (∀ (r : Nat) (hr : r < 64), ∀ p, [2, 3, 5, 7, 11, 13, 17, 19, 23, 29, 31, 37, 41, 43, 47, 53, 59, 61, 67, 71, 73, 79,
      83, 89, 97, 101, 103, 107, 109, 113, 127, 131, 137, 139, 149, 151, 157, 163, 167, 173, 179, 181, 191, 193, 197,
      199, 211, 223, 227, 229, 233, 239, 241, 251, 257, 263, 269, 271, 277, 281, 283, 293, 307, 311][r]? = some p →
    ∃ n, n < 8 ∧ (n * 2 ^ 32 + kRom[r].toNat) ^ 3 ≤ p * 2 ^ 96 ∧ p * 2 ^ 96 < (n * 2 ^ 32 + kRom[r].toNat + 1) ^ 3)

/-- R8: the primitives as the rule writes them on numbers. That add32 is commutative and associative is the rule's own
inference, marked there 'derived: from the definition of add32'. -/
def Obligations.PrimitivesMatchArithmetic : Prop :=
  (∀ x y : Word, (add32 x y).toNat = (x.toNat + y.toNat) % 2 ^ 32) ∧
  (∀ x y z : Word, add32 x y = add32 y x ∧ add32 x (add32 y z) = add32 (add32 x y) z) ∧
  (∀ (x : Word) (n : Nat), 0 < n → n < 32 →
    (rotr x n).toNat = x.toNat / 2 ^ n + x.toNat % 2 ^ n * 2 ^ (32 - n)) ∧
  (∀ (x : Word) (n : Nat), 0 < n → n < 32 → (shr x n).toNat = x.toNat / 2 ^ n) ∧
  (∀ (x y : Word) (k : Nat), (x ^^^ y).getLsbD k = (x.getLsbD k != y.getLsbD k)) ∧
  (∀ (x y : Word) (k : Nat), (x &&& y).getLsbD k = (x.getLsbD k && y.getLsbD k)) ∧
  (∀ x : Word, (~~~x).toNat = 0xFFFFFFFF - x.toNat)

/-- The six word functions bit by bit. For the four sigmas this follows from the expressions of R12 and the rotation,
shift and XOR of R8; that ch selects y where x is 1 and z where x is 0, and that maj is the value at least two of the
three hold, is R12's own inference, marked there 'derived: from the truth tables of the two expressions'. -/
def Obligations.WordFunctionsBitByBit : Prop :=
  ∀ (x y z : Word) (k : Nat), k < 32 →
    (ssig0 x).getLsbD k = (x.getLsbD ((k + 7) % 32) ^^ x.getLsbD ((k + 18) % 32) ^^ x.getLsbD (k + 3)) ∧
    (ssig1 x).getLsbD k = (x.getLsbD ((k + 17) % 32) ^^ x.getLsbD ((k + 19) % 32) ^^ x.getLsbD (k + 10)) ∧
    (bsig0 x).getLsbD k = (x.getLsbD ((k + 2) % 32) ^^ x.getLsbD ((k + 13) % 32) ^^ x.getLsbD ((k + 22) % 32)) ∧
    (bsig1 x).getLsbD k = (x.getLsbD ((k + 6) % 32) ^^ x.getLsbD ((k + 11) % 32) ^^ x.getLsbD ((k + 25) % 32)) ∧
    (ch x y z).getLsbD k = (if x.getLsbD k then y.getLsbD k else z.getLsbD k) ∧
    (maj x y z).getLsbD k =
      decide (2 ≤ (x.getLsbD k).toNat + (y.getLsbD k).toNat + (z.getLsbD k).toNat)

/-! ## The output stage -/

/-- R180: DIG.OUT copies H to DIGEST, sets DONE and returns to IDLE in one step. -/
def Obligations.DigOutLatchesDigest : Prop :=
  decode (.uop 0x200#10) = .ok .digOut ∧
  ∀ s : State, exec .digOut s = .next { s with digest := s.h, done := true, phase := 0x0#4, t := 0#6 }

/-- R181, R94: the digest as 32 bytes: byte 4k + q is bits 31 - 8q to 24 - 8q of DIGEST[k]. -/
def Obligations.DigestBytesLayout : Prop :=
  ∀ d : Words8, (digestBytes d).length = 32 ∧
    ∀ (k q : Nat) (hk : k < 8), q < 4 → (digestBytes d)[4 * k + q]? = some (d[k].extractLsb' (24 - 8 * q) 8)

/-- R182: the digest as text: 64 characters of [0-9a-f]; character 8k + n is the digit of bits 31 - 4n to 28 - 4n of
DIGEST[k]. -/
def Obligations.HexDigestLayout : Prop :=
  ∀ d : Words8, (hexDigest d).length = 64 ∧
    (∀ c ∈ hexDigest d, ('0' ≤ c ∧ c ≤ '9') ∨ ('a' ≤ c ∧ c ≤ 'f')) ∧
    ∀ (k n : Nat) (hk : k < 8), n < 8 →
      (hexDigest d)[8 * k + n]? = "0123456789abcdef".toList[(d[k].toNat / 2 ^ (28 - 4 * n)) % 16]?

/-! ## The sequencer -/

/-- R200, R232: at (IDLE, 0) the unit does nothing and keeps all its state. That IDLE's code is an operation that
completes is the model's reading (log entry 11). -/
def Obligations.IdleKeepsAllState : Prop :=
  decode (.uop 0x000#10) = .ok .idle ∧
  (∀ s : State, exec .idle s = .next s) ∧
  (∀ s : State, s.turns = [] → s.phase = 0x0#4 → s.t = 0#6 → step s = .next s)

/-- R201: the successor of every position. -/
def Obligations.SuccessorOfEveryPosition : Prop :=
  ∀ (s u : State) (i : Instr), decodeUop (s.phase ++ s.t) = .ok i → exec i s = .next u →
    (s.phase = 0x0#4 → u.phase = 0x0#4 ∧ u.t = 0#6) ∧
    (s.phase = 0x1#4 → u.phase = 0x2#4 ∧ u.t = 0#6) ∧
    (s.phase = 0x2#4 → s.t.toNat ≤ 62 → u.phase = 0x2#4 ∧ u.t.toNat = s.t.toNat + 1) ∧
    (s.phase = 0x2#4 → s.t = 63#6 → u.phase = 0x3#4 ∧ u.t = 0#6) ∧
    (s.phase = 0x3#4 → s.t.toNat ≤ 14 → u.phase = 0x3#4 ∧ u.t.toNat = s.t.toNat + 1) ∧
    (s.phase = 0x3#4 → s.t = 15#6 → u.phase = 0x4#4 ∧ u.t = 16#6) ∧
    (s.phase = 0x4#4 → s.t.toNat ≤ 62 → u.phase = 0x4#4 ∧ u.t.toNat = s.t.toNat + 1) ∧
    (s.phase = 0x4#4 → s.t = 63#6 → u.phase = 0x5#4 ∧ u.t = 0#6) ∧
    (s.phase = 0x5#4 → u.phase = 0x6#4 ∧ u.t = 0#6) ∧
    (s.phase = 0x6#4 → s.t.toNat ≤ 62 → u.phase = 0x6#4 ∧ u.t.toNat = s.t.toNat + 1) ∧
    (s.phase = 0x6#4 → s.t = 63#6 → u.phase = 0x7#4 ∧ u.t = 0#6) ∧
    (s.phase = 0x7#4 → u.t = 0#6 ∧ u.i = s.i + 1#56 ∧
      u.phase = if s.i.toNat + 1 < nBlocks s.len.toNat then 0x2#4 else 0x8#4) ∧
    (s.phase = 0x8#4 → u.phase = 0x0#4 ∧ u.t = 0#6) ∧
    (s.phase ≠ 0x7#4 → u.i = s.i)

/-- R264: the position a micro-operation leads to depends on the position and LEN only, not on the message bytes or
any datapath register. -/
def Obligations.PositionsDependOnLengthOnly : Prop :=
  ∀ (i : Instr) (s1 s2 u1 u2 : State), i.format = .uop →
    s1.phase = s2.phase → s1.t = s2.t → s1.i = s2.i → s1.len = s2.len →
    exec i s1 = .next u1 → exec i s2 = .next u2 →
    u1.phase = u2.phase ∧ u1.t = u2.t ∧ u1.i = u2.i ∧ u1.len = u2.len

/-- R202: while a run is in progress the sequencer's step completes and takes exactly one off the number of
micro-operations left; an accepted START leaves 2 + 194 * NB of them. -/
def Obligations.RunTakesExactStepCount : Prop :=
  (∀ s : State, ControlInv s → s.phase ≠ 0x0#4 → s.turns = [] ∨ (∃ rest, s.turns = .sequencer :: rest) →
    ∃ u, step s = .next u ∧ remaining u + 1 = remaining s ∧ (remaining u = 0 ↔ u.phase = 0x0#4)) ∧
  (∀ s u : State, s.phase = 0x0#4 → exec .start s = .next u →
    remaining u = 2 + 194 * ((s.len.toNat + 8) / 64 + 1))

/-! ## Frames -/

/-- Which operations write which register (R21, R22, R23, R26, R30, R33, R34, R35), and which entry: every register
not named for an operation is unchanged by it. -/
def Obligations.RegisterWriters : Prop :=
  ∀ (i : Instr) (s u : State), exec i s = .next u →
    (u.v ≠ s.v → i = .creSeed ∨ ∃ r, i = .creRound r) ∧
    (u.h ≠ s.h → i = .creInit ∨ i = .creFfwd) ∧
    (∀ (k : Nat) (hk : k < 64), u.w[k] ≠ s.w[k] →
      (∃ t, i = .msxLoad t ∧ k = t.toNat) ∨ ∃ t, i = .msxExp t ∧ k = t.toNat) ∧
    (∀ (k : Nat) (hk : k < 64), u.blk[k] ≠ s.blk[k] → ∃ j, i = .padByte j ∧ k = j.toNat) ∧
    (u.i ≠ s.i → i = .start ∨ i = .creFfwd) ∧
    (u.done ≠ s.done → i = .start ∨ i = .digOut) ∧
    (u.len ≠ s.len → s.phase = 0x0#4 ∧ ∃ v, i = .wrlenLo v ∨ i = .wrlenHi v) ∧
    (u.digest ≠ s.digest → i = .digOut) ∧
    (u.phase ≠ s.phase ∨ u.t ≠ s.t → i = .start ∨ i.format = .uop) ∧
    (u.reads ≠ s.reads → i.format = .ht)

/-- R62: no operation writes memory: every byte reads as before. Beyond the rule, of fields the model holds in its own
form: no operation changes MSG_BYTES (log entry 5), the pending moves (log entry 1) or the count of resets (log
entry 3). -/
def Obligations.NoOperationWritesMemory : Prop :=
  ∀ (i : Instr) (s u : State), exec i s = .next u →
    (∀ a, u.msg.read a = s.msg.read a) ∧ u.msg = s.msg ∧ u.msgBytes = s.msgBytes ∧ u.turns = s.turns ∧
    u.resets = s.resets

/-! ## Memory -/

/-- R61: MemRead gives the byte at an address below MSG_BYTES; there is none above, and the model faults. -/
def Obligations.MemReadGivesListedByte : Prop :=
  ∀ (s : State) (a : Nat),
    (a < s.msgBytes.toNat → memRead s a = .next (s.msg.read a)) ∧
    (s.msgBytes.toNat ≤ a → memRead s a = .fault (.msgAddressAbsent a))

/-- R61, R69: no operation's outcome depends on a byte of MSG at an address at or above LEN. -/
def Obligations.BytesAboveLenNeverMatter : Prop :=
  ∀ (i : Instr) (s : State) (m : Memory), (∀ a, a < s.len.toNat → m.read a = s.msg.read a) →
    exec i { s with msg := m } = Result.andThen (exec i s) fun u => .next { u with msg := m }

/-- R105, R255: a host write of a byte of MSG, while idle or at an address at or above LEN, changes that byte and no
other and nothing else, and keeps the memory's canonical form. -/
def Obligations.HostMessageWriteChangesOneByte : Prop :=
  ∀ (s : State) (a : BitVec 61) (b : Byte) (rest : List Turn), s.turns = .msgWrite a b :: rest →
    a.toNat < s.msgBytes.toNat → s.phase = 0x0#4 ∨ s.len.toNat ≤ a.toNat → s.msg.wf = true →
    ∃ m : Memory, step s = .next { s with turns := rest, msg := m } ∧
      m.wf = true ∧ m.read a.toNat = b ∧ ∀ c, c ≠ a.toNat → m.read c = s.msg.read c

/-- A host write of MSG at an address that does not exist faults (R60); one below LEN during a run is refused, the
spec's treatment U3 (log entries 7 and 12). -/
def Obligations.ForbiddenMessageWritesStop : Prop :=
  ∀ (s : State) (a : BitVec 61) (b : Byte) (rest : List Turn), s.turns = .msgWrite a b :: rest →
    (s.msgBytes.toNat ≤ a.toNat → step s = .fault (.msgAddressAbsent a.toNat)) ∧
    (a.toNat < s.msgBytes.toNat → s.phase ≠ 0x0#4 → a.toNat < s.len.toNat →
      step s = .refused .messageWriteDuringRun)

/-- R39, R255, R204: no step of a run changes a byte of the message, and no step but a reset event changes LEN while
BUSY = 1. The first clause rests on two choices of the model: a host write below LEN during a run is refused (log
entry 7, the spec's treatment U3, unsafe: it errs toward proving), and a reset event keeps MSG (log entry 22). -/
def Obligations.MessageIsFixedDuringRun : Prop :=
  ∀ s u : State, s.phase ≠ 0x0#4 → step s = .next u →
    (∀ a, a < s.len.toNat → u.msg.read a = s.msg.read a) ∧
    ((∀ rest, s.turns ≠ .reset :: rest) → u.len = s.len)

/-! ## Reset -/

/-- R250: the reset event clears the control state in one step, at any point; MSG, MSG_BYTES and what reads returned
are not the unit's and stay (log entry 22). V, H, W, BLK and DIGEST become unspecified: nothing is claimed of them. -/
def Obligations.ResetEventClearsControl : Prop :=
  ∀ (s : State) (rest : List Turn), s.turns = .reset :: rest →
    ∃ u, step s = .next u ∧ u.phase = 0x0#4 ∧ u.t = 0#6 ∧ u.i = 0#56 ∧ u.done = false ∧ u.len = 0#64 ∧
      u.msg = s.msg ∧ u.msgBytes = s.msgBytes ∧ u.reads = s.reads ∧ u.turns = rest

/-- R37, R251: the control state right after reset, and what the host then reads of it. -/
def Obligations.ResetStateValues : Prop :=
  State.reset.phase = 0x0#4 ∧ State.reset.t = 0#6 ∧ State.reset.i = 0#56 ∧ State.reset.done = false ∧
  State.reset.len = 0#64 ∧
  exec .rdstat State.reset = .next { State.reset with reads := [0x00000000#32] } ∧
  exec .rdnblkLo State.reset = .next { State.reset with reads := [0x00000000#32] } ∧
  exec .rdnblkHi State.reset = .next { State.reset with reads := [0x00000000#32] }

/-! ## Invariants and runs -/

/-- The state right after reset meets both invariants (R37, R38). -/
def Obligations.ResetMeetsInvariants : Prop :=
  ControlInv State.reset ∧ RunInv State.reset

/-- Every step of either agent keeps the control invariant: the position is one of the control program's (R38), the
memory canonical and inside MSG_BYTES, a run inside the domain, I at most NB (R24), BUSY and DONE not both 1 (R26).
It rests on START being refused outside the domain (log entry 6), on the fault above MSG_BYTES (log entry 12) and on
the reset event keeping MSG (log entry 22). -/
def Obligations.StepKeepsInvariant : Prop :=
  ∀ s u : State, ControlInv s → step s = .next u → ControlInv u

/-- Every step of either agent keeps the data invariant: whatever the interleaving of host transactions, message
writes, resets and micro-operations, the datapath registers hold the algorithm's values (R38, R203, R205). It rests on
the refusal of a host write below LEN during a run (log entry 7, the spec's treatment U3) and on log entries 6, 12
and 22. -/
def Obligations.StepKeepsRunData : Prop :=
  ∀ s u : State, RunInv s → step s = .next u → RunInv u

/-- R203: in a state that meets the data invariant, DIG.OUT latches the digest of the message: the chained compression
of its padded blocks. -/
def Obligations.DigOutGivesDigestOfMessage : Prop :=
  ∀ s : State, RunInv s → s.phase = 0x8#4 →
    ∃ u, exec .digOut s = .next u ∧ u.digest = refDigest s.msg s.len.toNat ∧ u.done = true ∧
      u.i.toNat = nBlocks s.len.toNat

/-- R202, R203: from any state in which START is accepted, the run it begins ends after exactly 2 + 194 * NB
micro-operations, idle, with DONE = 1, I = NB and DIGEST = H = the digest of MSG[0..LEN-1], whatever the registers
held before. -/
def Obligations.RunComputesDigest : Prop :=
  ∀ s s1 : State, ControlInv s → s.turns = [] → s.phase = 0x0#4 → exec .start s = .next s1 →
    ∃ u, core.run (2 + 194 * nBlocks s.len.toNat) s1 = .next u ∧
      u.phase = 0x0#4 ∧ u.t = 0#6 ∧ u.done = true ∧ u.i.toNat = nBlocks s.len.toNat ∧
      u.digest = refDigest s.msg s.len.toNat ∧ u.h = u.digest ∧ u.len = s.len ∧ u.msg = s.msg

/-- R142: the reference schedule is the recurrence on the block's words. -/
def Obligations.ScheduleIsRecurrence : Prop :=
  ∀ b : Vector Byte 64,
    (∀ (t : Nat) (ht : t < 16), refSchedule b t =
      b[4 * t]'(by omega) ++ b[4 * t + 1]'(by omega) ++ b[4 * t + 2]'(by omega) ++ b[4 * t + 3]'(by omega)) ∧
    (∀ t : Nat, 16 ≤ t → refSchedule b t =
      refSchedule b (t - 16) + ssig0 (refSchedule b (t - 15)) + refSchedule b (t - 7) + ssig1 (refSchedule b (t - 2)))
end

