-- ==== Sys2Proof/Laws/Decode.lean ====
section
/-! SUPPORT. Fields of an assembled word, and bytes and numbers. -/

namespace Sys2Proof

@[simp] theorem htWe_htWord (we : Bool) (a : BitVec 4) (d : Word) : htWe (htWord we a d) = we := by
  simp only [htWe, htWord, BitVec.getLsbD_append, BitVec.getLsbD_ofBool]
  simp

@[simp] theorem htAddr_htWord (we : Bool) (a : BitVec 4) (d : Word) : htAddr (htWord we a d) = a := by
  apply BitVec.eq_of_getLsbD_eq
  intro k hk
  simp only [htAddr, htWord, BitVec.getLsbD_append, BitVec.getLsbD_extractLsb', hk, decide_true, Bool.true_and]
  simp [hk]

@[simp] theorem htData_htWord (we : Bool) (a : BitVec 4) (d : Word) : htData (htWord we a d) = d := by
  apply BitVec.eq_of_getLsbD_eq
  intro k hk
  simp only [htData, htWord, BitVec.getLsbD_append, BitVec.getLsbD_extractLsb', hk, decide_true, Bool.true_and]
  simp [hk]

@[simp] theorem uopPhase_append (p : BitVec 4) (k : BitVec 6) : uopPhase (p ++ k) = p := by
  apply BitVec.eq_of_getLsbD_eq
  intro n hn
  simp only [uopPhase, BitVec.getLsbD_append, BitVec.getLsbD_extractLsb', hn, decide_true, Bool.true_and]
  simp [hn]

@[simp] theorem uopIdx_append (p : BitVec 4) (k : BitVec 6) : uopIdx (p ++ k) = k := by
  apply BitVec.eq_of_getLsbD_eq
  intro n hn
  simp only [uopIdx, BitVec.getLsbD_append, BitVec.getLsbD_extractLsb', hn, decide_true, Bool.true_and]
  simp [hn]

/-- A host word is made of its three fields. -/
theorem htWord_fields (w : BitVec 37) : htWord (htWe w) (htAddr w) (htData w) = w := by
  apply BitVec.eq_of_getLsbD_eq
  intro k hk
  simp only [htWord, htWe, htAddr, htData, BitVec.getLsbD_append, BitVec.getLsbD_extractLsb', BitVec.getLsbD_ofBool]
  by_cases h1 : k < 32
  · simp [h1]
  · by_cases h2 : k - 32 < 4
    · simp only [h1, h2, if_false, if_true, decide_true, Bool.true_and]
      congr 1
      omega
    · have : k = 36 := by omega
      subst this
      rfl

/-- A micro-operation code is made of its two fields. -/
theorem uopWord_fields (c : BitVec 10) : uopWord (uopPhase c) (uopIdx c) = c := by
  apply BitVec.eq_of_getLsbD_eq
  intro k hk
  simp only [uopWord, uopPhase, uopIdx, BitVec.getLsbD_append, BitVec.getLsbD_extractLsb']
  by_cases h1 : k < 6
  · simp [h1]
  · have h2 : k - 6 < 4 := by omega
    simp only [h1, h2, if_false, decide_true, Bool.true_and]
    congr 1
    omega

@[simp] theorem natToBytes_length (n x : Nat) : (natToBytes n x).length = n := by
  induction n generalizing x with
  | zero => rfl
  | succ n ih => simp [natToBytes, ih]

/-- The number of the `n` low bytes of a number is the number modulo 256^n. -/
theorem bytesToNat_natToBytes (n x : Nat) : bytesToNat (natToBytes n x) = x % 256 ^ n := by
  induction n generalizing x with
  | zero => simp [natToBytes, bytesToNat, Nat.mod_one]
  | succ n ih =>
    have h : 256 ^ (n + 1) = 256 * 256 ^ n := by rw [Nat.pow_succ, Nat.mul_comm]
    rw [h, Nat.mod_mul]
    simp [natToBytes, bytesToNat, ih]

/-- A position that has an operation is one row of the map R99, and the operation is that row's. -/
theorem decodeUop_cases {p : BitVec 4} {t : BitVec 6} {i : Instr} (h : decodeUop (p ++ t) = .ok i) :
    (p = 0x0#4 ∧ t = 0#6 ∧ i = .idle) ∨ (p = 0x1#4 ∧ t = 0#6 ∧ i = .creInit) ∨ (p = 0x2#4 ∧ i = .padByte t) ∨
    (p = 0x3#4 ∧ t.toNat < 16 ∧ i = .msxLoad (t.extractLsb' 0 4)) ∨ (p = 0x4#4 ∧ 16 ≤ t.toNat ∧ i = .msxExp t) ∨
    (p = 0x5#4 ∧ t = 0#6 ∧ i = .creSeed) ∨ (p = 0x6#4 ∧ i = .creRound t) ∨ (p = 0x7#4 ∧ t = 0#6 ∧ i = .creFfwd) ∨
    (p = 0x8#4 ∧ t = 0#6 ∧ i = .digOut) := by
  unfold decodeUop onlyIdxZero at h
  simp only [uopPhase_append, uopIdx_append] at h
  repeat' split at h
  all_goals simp_all

/-- A host word stands for a host transaction. -/
theorem decodeHt_format (w : BitVec 37) : (decodeHt w).format = .ht := by
  unfold decodeHt
  repeat' split
  all_goals rfl

end Sys2Proof
end

