-- ==== Sys2Proof/Laws/Memory.lean ====
section
/-! SUPPORT. The laws of the message memory: a read after a write, the canonical form, and where entries lie. -/

namespace Sys2Proof.Machine

/-- Below the first address of a memory that rises above `lo`, nothing is listed. -/
theorem Memory.read_below {lo a : Nat} {m : Memory} (h : m.wfAbove lo = true) (ha : a ≤ lo) :
    m.read a = Memory.unlisted := by
  induction m generalizing lo with
  | nil => rfl
  | cons c rest ih =>
    obtain ⟨b, x⟩ := c
    simp only [Memory.wfAbove, Bool.and_eq_true, decide_eq_true_eq] at h
    have hb : ¬ a = b := by omega
    simp only [Memory.read, hb, if_false]
    exact ih h.2 (by omega)

/-- A write above `lo` keeps the canonical form above `lo`. -/
theorem Memory.write_wfAbove {lo a : Nat} {v : Byte} {m : Memory} (h : m.wfAbove lo = true) (ha : lo < a) :
    (m.write a v).wfAbove lo = true := by
  induction m generalizing lo with
  | nil => by_cases hv : v = Memory.unlisted <;> simp [Memory.write, Memory.wfAbove, hv, ha]
  | cons c rest ih =>
    obtain ⟨b, x⟩ := c
    simp only [Memory.wfAbove, Bool.and_eq_true, decide_eq_true_eq] at h
    obtain ⟨⟨hb, hx⟩, hr⟩ := h
    have weaken : Memory.wfAbove lo rest = true := by
      cases rest with
      | nil => rfl
      | cons c' r' =>
        simp only [Memory.wfAbove, Bool.and_eq_true, decide_eq_true_eq] at hr ⊢
        exact ⟨⟨by omega, hr.1.2⟩, hr.2⟩
    rcases Nat.lt_trichotomy a b with hab | hab | hab
    · by_cases hv : v = Memory.unlisted
      · simp [Memory.write, hab, hv, Memory.wfAbove, hb, hx, hr]
      · simp [Memory.write, hab, hv, Memory.wfAbove, hx, hr, ha]
    · subst hab
      by_cases hv : v = Memory.unlisted
      · simp [Memory.write, hv, weaken]
      · simp [Memory.write, hv, Memory.wfAbove, hr, ha]
    · have h1 : ¬ a < b := by omega
      have h2 : ¬ a = b := by omega
      simp [Memory.write, h1, h2, Memory.wfAbove, hb, hx, ih hr hab]

/-- A memory that rises above some address is in canonical form. -/
theorem Memory.wf_of_wfAbove {lo : Nat} {m : Memory} (h : m.wfAbove lo = true) : m.wf = true := by
  cases m with
  | nil => rfl
  | cons c rest =>
    simp only [Memory.wfAbove, Bool.and_eq_true] at h
    simp [Memory.wf, h.1.2, h.2]

/-- A write keeps the canonical form. -/
theorem Memory.write_wf {a : Nat} {v : Byte} {m : Memory} (h : m.wf = true) : (m.write a v).wf = true := by
  cases m with
  | nil => by_cases hv : v = Memory.unlisted <;> simp [Memory.write, Memory.wf, Memory.wfAbove, hv]
  | cons c rest =>
    obtain ⟨b, x⟩ := c
    simp only [Memory.wf, Bool.and_eq_true] at h
    obtain ⟨hx, hr⟩ := h
    rcases Nat.lt_trichotomy a b with hab | hab | hab
    · by_cases hv : v = Memory.unlisted
      · simp [Memory.write, hab, hv, Memory.wf, hx, hr]
      · simp [Memory.write, hab, hv, Memory.wf, Memory.wfAbove, hx, hr]
    · subst hab
      by_cases hv : v = Memory.unlisted
      · simpa [Memory.write, hv] using Memory.wf_of_wfAbove hr
      · simp [Memory.write, hv, Memory.wf, hr]
    · have h1 : ¬ a < b := by omega
      have h2 : ¬ a = b := by omega
      simp [Memory.write, h1, h2, Memory.wf, hx, Memory.write_wfAbove hr hab]

/-- A write leaves every other address as it was. -/
theorem Memory.read_write_other {a c : Nat} {v : Byte} {m : Memory} (hc : c ≠ a) :
    (m.write a v).read c = m.read c := by
  induction m with
  | nil => by_cases hv : v = Memory.unlisted <;> simp [Memory.write, Memory.read, hv, hc]
  | cons e rest ih =>
    obtain ⟨b, x⟩ := e
    by_cases hab : a < b
    · by_cases hv : v = Memory.unlisted <;> simp [Memory.write, hab, hv, Memory.read, hc]
    · by_cases hab' : a = b
      · subst hab'
        by_cases hv : v = Memory.unlisted <;> simp [Memory.write, hv, Memory.read, hc]
      · by_cases hcb : c = b <;> simp [Memory.write, hab, hab', Memory.read, hcb, ih]

/-- A memory that rises above `lo` reads a byte written above `lo` back. -/
theorem Memory.read_write_same_above {lo a : Nat} {v : Byte} {m : Memory} (h : m.wfAbove lo = true) :
    (m.write a v).read a = v := by
  induction m generalizing lo with
  | nil => by_cases hv : v = Memory.unlisted <;> simp [Memory.write, Memory.read, hv]
  | cons c rest ih =>
    obtain ⟨b, x⟩ := c
    simp only [Memory.wfAbove, Bool.and_eq_true, decide_eq_true_eq] at h
    rcases Nat.lt_trichotomy a b with hab | hab | hab
    · by_cases hv : v = Memory.unlisted
      · have hne : ¬ a = b := by omega
        simp [Memory.write, hab, hv, Memory.read, hne, Memory.read_below h.2 (by omega : a ≤ b)]
      · simp [Memory.write, hab, hv, Memory.read]
    · subst hab
      by_cases hv : v = Memory.unlisted
      · simp [Memory.write, hv, Memory.read_below h.2 (Nat.le_refl a)]
      · simp [Memory.write, hv, Memory.read]
    · have h1 : ¬ a < b := by omega
      have h2 : ¬ a = b := by omega
      simp [Memory.write, h1, h2, Memory.read, ih h.2]

/-- A read after a write to the same address of a canonical memory gives the byte written. -/
theorem Memory.read_write_same {a : Nat} {v : Byte} {m : Memory} (h : m.wf = true) : (m.write a v).read a = v := by
  cases m with
  | nil => by_cases hv : v = Memory.unlisted <;> simp [Memory.write, Memory.read, hv]
  | cons c rest =>
    obtain ⟨b, x⟩ := c
    simp only [Memory.wf, Bool.and_eq_true] at h
    rcases Nat.lt_trichotomy a b with hab | hab | hab
    · by_cases hv : v = Memory.unlisted
      · have hne : ¬ a = b := by omega
        simp [Memory.write, hab, hv, Memory.read, hne, Memory.read_below h.2 (by omega : a ≤ b)]
      · simp [Memory.write, hab, hv, Memory.read]
    · subst hab
      by_cases hv : v = Memory.unlisted
      · simp [Memory.write, hv, Memory.read_below h.2 (Nat.le_refl a)]
      · simp [Memory.write, hv, Memory.read]
    · have h1 : ¬ a < b := by omega
      have h2 : ¬ a = b := by omega
      simp [Memory.write, h1, h2, Memory.read, Memory.read_write_same_above h.2]

/-- Every entry after a write was there before or is the written one. -/
theorem Memory.mem_write {a : Nat} {v : Byte} {m : Memory} {c : Host.Cell} (h : c ∈ m.write a v) :
    c ∈ m ∨ c = (a, v) := by
  induction m with
  | nil =>
    by_cases hv : v = Memory.unlisted
    · simp [Memory.write, hv] at h
    · simp only [Memory.write, hv, if_false, List.mem_singleton] at h
      exact .inr h
  | cons e rest ih =>
    obtain ⟨b, x⟩ := e
    by_cases hab : a < b
    · by_cases hv : v = Memory.unlisted
      · simp only [Memory.write, hab, hv, if_true] at h
        exact .inl h
      · simp only [Memory.write, hab, hv, if_true, if_false, List.mem_cons] at h
        rcases h with h | h | h <;> simp [h]
    · by_cases hab' : a = b
      · subst hab'
        by_cases hv : v = Memory.unlisted
        · simp only [Memory.write, hab, hv, if_true, if_false] at h
          exact .inl (List.mem_cons_of_mem _ h)
        · simp only [Memory.write, hab, hv, if_true, if_false, List.mem_cons] at h
          rcases h with h | h
          · exact .inr h
          · exact .inl (List.mem_cons_of_mem _ h)
      · simp only [Memory.write, hab, hab', if_false, List.mem_cons] at h
        rcases h with h | h
        · exact .inl (by simp [h])
        · exact (ih h).imp_left (List.mem_cons_of_mem _)

end Sys2Proof.Machine
end

