-- ==== Sys2Proof/Laws/State.lean ====
section
/-! SUPPORT. One lemma per field per named update of State. -/

namespace Sys2Proof.Machine

/-! ## setPos -/

@[simp] theorem setPos_v (s : State) (p : BitVec 4) (idx : BitVec 6) : (setPos s p idx).v = s.v := rfl
@[simp] theorem setPos_h (s : State) (p : BitVec 4) (idx : BitVec 6) : (setPos s p idx).h = s.h := rfl
@[simp] theorem setPos_w (s : State) (p : BitVec 4) (idx : BitVec 6) : (setPos s p idx).w = s.w := rfl
@[simp] theorem setPos_blk (s : State) (p : BitVec 4) (idx : BitVec 6) : (setPos s p idx).blk = s.blk := rfl
@[simp] theorem setPos_i (s : State) (p : BitVec 4) (idx : BitVec 6) : (setPos s p idx).i = s.i := rfl
@[simp] theorem setPos_phase (s : State) (p : BitVec 4) (idx : BitVec 6) : (setPos s p idx).phase = p := rfl
@[simp] theorem setPos_t (s : State) (p : BitVec 4) (idx : BitVec 6) : (setPos s p idx).t = idx := rfl
@[simp] theorem setPos_done (s : State) (p : BitVec 4) (idx : BitVec 6) : (setPos s p idx).done = s.done := rfl
@[simp] theorem setPos_len (s : State) (p : BitVec 4) (idx : BitVec 6) : (setPos s p idx).len = s.len := rfl
@[simp] theorem setPos_digest (s : State) (p : BitVec 4) (idx : BitVec 6) : (setPos s p idx).digest = s.digest := rfl
@[simp] theorem setPos_msg (s : State) (p : BitVec 4) (idx : BitVec 6) : (setPos s p idx).msg = s.msg := rfl
@[simp] theorem setPos_msgBytes (s : State) (p : BitVec 4) (idx : BitVec 6) : (setPos s p idx).msgBytes = s.msgBytes := rfl
@[simp] theorem setPos_turns (s : State) (p : BitVec 4) (idx : BitVec 6) : (setPos s p idx).turns = s.turns := rfl
@[simp] theorem setPos_reads (s : State) (p : BitVec 4) (idx : BitVec 6) : (setPos s p idx).reads = s.reads := rfl
@[simp] theorem setPos_resets (s : State) (p : BitVec 4) (idx : BitVec 6) : (setPos s p idx).resets = s.resets := rfl

/-! ## setBlk -/

@[simp] theorem setBlk_v (s : State) (j : BitVec 6) (b : Byte) : (setBlk s j b).v = s.v := rfl
@[simp] theorem setBlk_h (s : State) (j : BitVec 6) (b : Byte) : (setBlk s j b).h = s.h := rfl
@[simp] theorem setBlk_w (s : State) (j : BitVec 6) (b : Byte) : (setBlk s j b).w = s.w := rfl
@[simp] theorem setBlk_blk (s : State) (j : BitVec 6) (b : Byte) : (setBlk s j b).blk = s.blk.set j.toNat b (j.isLt) := rfl
@[simp] theorem setBlk_i (s : State) (j : BitVec 6) (b : Byte) : (setBlk s j b).i = s.i := rfl
@[simp] theorem setBlk_phase (s : State) (j : BitVec 6) (b : Byte) : (setBlk s j b).phase = s.phase := rfl
@[simp] theorem setBlk_t (s : State) (j : BitVec 6) (b : Byte) : (setBlk s j b).t = s.t := rfl
@[simp] theorem setBlk_done (s : State) (j : BitVec 6) (b : Byte) : (setBlk s j b).done = s.done := rfl
@[simp] theorem setBlk_len (s : State) (j : BitVec 6) (b : Byte) : (setBlk s j b).len = s.len := rfl
@[simp] theorem setBlk_digest (s : State) (j : BitVec 6) (b : Byte) : (setBlk s j b).digest = s.digest := rfl
@[simp] theorem setBlk_msg (s : State) (j : BitVec 6) (b : Byte) : (setBlk s j b).msg = s.msg := rfl
@[simp] theorem setBlk_msgBytes (s : State) (j : BitVec 6) (b : Byte) : (setBlk s j b).msgBytes = s.msgBytes := rfl
@[simp] theorem setBlk_turns (s : State) (j : BitVec 6) (b : Byte) : (setBlk s j b).turns = s.turns := rfl
@[simp] theorem setBlk_reads (s : State) (j : BitVec 6) (b : Byte) : (setBlk s j b).reads = s.reads := rfl
@[simp] theorem setBlk_resets (s : State) (j : BitVec 6) (b : Byte) : (setBlk s j b).resets = s.resets := rfl

/-! ## setW -/

@[simp] theorem setW_v (s : State) (k : BitVec 6) (x : Word) : (setW s k x).v = s.v := rfl
@[simp] theorem setW_h (s : State) (k : BitVec 6) (x : Word) : (setW s k x).h = s.h := rfl
@[simp] theorem setW_w (s : State) (k : BitVec 6) (x : Word) : (setW s k x).w = s.w.set k.toNat x (k.isLt) := rfl
@[simp] theorem setW_blk (s : State) (k : BitVec 6) (x : Word) : (setW s k x).blk = s.blk := rfl
@[simp] theorem setW_i (s : State) (k : BitVec 6) (x : Word) : (setW s k x).i = s.i := rfl
@[simp] theorem setW_phase (s : State) (k : BitVec 6) (x : Word) : (setW s k x).phase = s.phase := rfl
@[simp] theorem setW_t (s : State) (k : BitVec 6) (x : Word) : (setW s k x).t = s.t := rfl
@[simp] theorem setW_done (s : State) (k : BitVec 6) (x : Word) : (setW s k x).done = s.done := rfl
@[simp] theorem setW_len (s : State) (k : BitVec 6) (x : Word) : (setW s k x).len = s.len := rfl
@[simp] theorem setW_digest (s : State) (k : BitVec 6) (x : Word) : (setW s k x).digest = s.digest := rfl
@[simp] theorem setW_msg (s : State) (k : BitVec 6) (x : Word) : (setW s k x).msg = s.msg := rfl
@[simp] theorem setW_msgBytes (s : State) (k : BitVec 6) (x : Word) : (setW s k x).msgBytes = s.msgBytes := rfl
@[simp] theorem setW_turns (s : State) (k : BitVec 6) (x : Word) : (setW s k x).turns = s.turns := rfl
@[simp] theorem setW_reads (s : State) (k : BitVec 6) (x : Word) : (setW s k x).reads = s.reads := rfl
@[simp] theorem setW_resets (s : State) (k : BitVec 6) (x : Word) : (setW s k x).resets = s.resets := rfl

/-! ## setV -/

@[simp] theorem setV_v (s : State) (x : Words8) : (setV s x).v = x := rfl
@[simp] theorem setV_h (s : State) (x : Words8) : (setV s x).h = s.h := rfl
@[simp] theorem setV_w (s : State) (x : Words8) : (setV s x).w = s.w := rfl
@[simp] theorem setV_blk (s : State) (x : Words8) : (setV s x).blk = s.blk := rfl
@[simp] theorem setV_i (s : State) (x : Words8) : (setV s x).i = s.i := rfl
@[simp] theorem setV_phase (s : State) (x : Words8) : (setV s x).phase = s.phase := rfl
@[simp] theorem setV_t (s : State) (x : Words8) : (setV s x).t = s.t := rfl
@[simp] theorem setV_done (s : State) (x : Words8) : (setV s x).done = s.done := rfl
@[simp] theorem setV_len (s : State) (x : Words8) : (setV s x).len = s.len := rfl
@[simp] theorem setV_digest (s : State) (x : Words8) : (setV s x).digest = s.digest := rfl
@[simp] theorem setV_msg (s : State) (x : Words8) : (setV s x).msg = s.msg := rfl
@[simp] theorem setV_msgBytes (s : State) (x : Words8) : (setV s x).msgBytes = s.msgBytes := rfl
@[simp] theorem setV_turns (s : State) (x : Words8) : (setV s x).turns = s.turns := rfl
@[simp] theorem setV_reads (s : State) (x : Words8) : (setV s x).reads = s.reads := rfl
@[simp] theorem setV_resets (s : State) (x : Words8) : (setV s x).resets = s.resets := rfl

/-! ## setH -/

@[simp] theorem setH_v (s : State) (x : Words8) : (setH s x).v = s.v := rfl
@[simp] theorem setH_h (s : State) (x : Words8) : (setH s x).h = x := rfl
@[simp] theorem setH_w (s : State) (x : Words8) : (setH s x).w = s.w := rfl
@[simp] theorem setH_blk (s : State) (x : Words8) : (setH s x).blk = s.blk := rfl
@[simp] theorem setH_i (s : State) (x : Words8) : (setH s x).i = s.i := rfl
@[simp] theorem setH_phase (s : State) (x : Words8) : (setH s x).phase = s.phase := rfl
@[simp] theorem setH_t (s : State) (x : Words8) : (setH s x).t = s.t := rfl
@[simp] theorem setH_done (s : State) (x : Words8) : (setH s x).done = s.done := rfl
@[simp] theorem setH_len (s : State) (x : Words8) : (setH s x).len = s.len := rfl
@[simp] theorem setH_digest (s : State) (x : Words8) : (setH s x).digest = s.digest := rfl
@[simp] theorem setH_msg (s : State) (x : Words8) : (setH s x).msg = s.msg := rfl
@[simp] theorem setH_msgBytes (s : State) (x : Words8) : (setH s x).msgBytes = s.msgBytes := rfl
@[simp] theorem setH_turns (s : State) (x : Words8) : (setH s x).turns = s.turns := rfl
@[simp] theorem setH_reads (s : State) (x : Words8) : (setH s x).reads = s.reads := rfl
@[simp] theorem setH_resets (s : State) (x : Words8) : (setH s x).resets = s.resets := rfl

/-! ## setI -/

@[simp] theorem setI_v (s : State) (x : BitVec 56) : (setI s x).v = s.v := rfl
@[simp] theorem setI_h (s : State) (x : BitVec 56) : (setI s x).h = s.h := rfl
@[simp] theorem setI_w (s : State) (x : BitVec 56) : (setI s x).w = s.w := rfl
@[simp] theorem setI_blk (s : State) (x : BitVec 56) : (setI s x).blk = s.blk := rfl
@[simp] theorem setI_i (s : State) (x : BitVec 56) : (setI s x).i = x := rfl
@[simp] theorem setI_phase (s : State) (x : BitVec 56) : (setI s x).phase = s.phase := rfl
@[simp] theorem setI_t (s : State) (x : BitVec 56) : (setI s x).t = s.t := rfl
@[simp] theorem setI_done (s : State) (x : BitVec 56) : (setI s x).done = s.done := rfl
@[simp] theorem setI_len (s : State) (x : BitVec 56) : (setI s x).len = s.len := rfl
@[simp] theorem setI_digest (s : State) (x : BitVec 56) : (setI s x).digest = s.digest := rfl
@[simp] theorem setI_msg (s : State) (x : BitVec 56) : (setI s x).msg = s.msg := rfl
@[simp] theorem setI_msgBytes (s : State) (x : BitVec 56) : (setI s x).msgBytes = s.msgBytes := rfl
@[simp] theorem setI_turns (s : State) (x : BitVec 56) : (setI s x).turns = s.turns := rfl
@[simp] theorem setI_reads (s : State) (x : BitVec 56) : (setI s x).reads = s.reads := rfl
@[simp] theorem setI_resets (s : State) (x : BitVec 56) : (setI s x).resets = s.resets := rfl

/-! ## setLen -/

@[simp] theorem setLen_v (s : State) (x : BitVec 64) : (setLen s x).v = s.v := rfl
@[simp] theorem setLen_h (s : State) (x : BitVec 64) : (setLen s x).h = s.h := rfl
@[simp] theorem setLen_w (s : State) (x : BitVec 64) : (setLen s x).w = s.w := rfl
@[simp] theorem setLen_blk (s : State) (x : BitVec 64) : (setLen s x).blk = s.blk := rfl
@[simp] theorem setLen_i (s : State) (x : BitVec 64) : (setLen s x).i = s.i := rfl
@[simp] theorem setLen_phase (s : State) (x : BitVec 64) : (setLen s x).phase = s.phase := rfl
@[simp] theorem setLen_t (s : State) (x : BitVec 64) : (setLen s x).t = s.t := rfl
@[simp] theorem setLen_done (s : State) (x : BitVec 64) : (setLen s x).done = s.done := rfl
@[simp] theorem setLen_len (s : State) (x : BitVec 64) : (setLen s x).len = x := rfl
@[simp] theorem setLen_digest (s : State) (x : BitVec 64) : (setLen s x).digest = s.digest := rfl
@[simp] theorem setLen_msg (s : State) (x : BitVec 64) : (setLen s x).msg = s.msg := rfl
@[simp] theorem setLen_msgBytes (s : State) (x : BitVec 64) : (setLen s x).msgBytes = s.msgBytes := rfl
@[simp] theorem setLen_turns (s : State) (x : BitVec 64) : (setLen s x).turns = s.turns := rfl
@[simp] theorem setLen_reads (s : State) (x : BitVec 64) : (setLen s x).reads = s.reads := rfl
@[simp] theorem setLen_resets (s : State) (x : BitVec 64) : (setLen s x).resets = s.resets := rfl

/-! ## setDigest -/

@[simp] theorem setDigest_v (s : State) (x : Words8) : (setDigest s x).v = s.v := rfl
@[simp] theorem setDigest_h (s : State) (x : Words8) : (setDigest s x).h = s.h := rfl
@[simp] theorem setDigest_w (s : State) (x : Words8) : (setDigest s x).w = s.w := rfl
@[simp] theorem setDigest_blk (s : State) (x : Words8) : (setDigest s x).blk = s.blk := rfl
@[simp] theorem setDigest_i (s : State) (x : Words8) : (setDigest s x).i = s.i := rfl
@[simp] theorem setDigest_phase (s : State) (x : Words8) : (setDigest s x).phase = s.phase := rfl
@[simp] theorem setDigest_t (s : State) (x : Words8) : (setDigest s x).t = s.t := rfl
@[simp] theorem setDigest_done (s : State) (x : Words8) : (setDigest s x).done = s.done := rfl
@[simp] theorem setDigest_len (s : State) (x : Words8) : (setDigest s x).len = s.len := rfl
@[simp] theorem setDigest_digest (s : State) (x : Words8) : (setDigest s x).digest = x := rfl
@[simp] theorem setDigest_msg (s : State) (x : Words8) : (setDigest s x).msg = s.msg := rfl
@[simp] theorem setDigest_msgBytes (s : State) (x : Words8) : (setDigest s x).msgBytes = s.msgBytes := rfl
@[simp] theorem setDigest_turns (s : State) (x : Words8) : (setDigest s x).turns = s.turns := rfl
@[simp] theorem setDigest_reads (s : State) (x : Words8) : (setDigest s x).reads = s.reads := rfl
@[simp] theorem setDigest_resets (s : State) (x : Words8) : (setDigest s x).resets = s.resets := rfl

/-! ## setDone -/

@[simp] theorem setDone_v (s : State) (x : Bool) : (setDone s x).v = s.v := rfl
@[simp] theorem setDone_h (s : State) (x : Bool) : (setDone s x).h = s.h := rfl
@[simp] theorem setDone_w (s : State) (x : Bool) : (setDone s x).w = s.w := rfl
@[simp] theorem setDone_blk (s : State) (x : Bool) : (setDone s x).blk = s.blk := rfl
@[simp] theorem setDone_i (s : State) (x : Bool) : (setDone s x).i = s.i := rfl
@[simp] theorem setDone_phase (s : State) (x : Bool) : (setDone s x).phase = s.phase := rfl
@[simp] theorem setDone_t (s : State) (x : Bool) : (setDone s x).t = s.t := rfl
@[simp] theorem setDone_done (s : State) (x : Bool) : (setDone s x).done = x := rfl
@[simp] theorem setDone_len (s : State) (x : Bool) : (setDone s x).len = s.len := rfl
@[simp] theorem setDone_digest (s : State) (x : Bool) : (setDone s x).digest = s.digest := rfl
@[simp] theorem setDone_msg (s : State) (x : Bool) : (setDone s x).msg = s.msg := rfl
@[simp] theorem setDone_msgBytes (s : State) (x : Bool) : (setDone s x).msgBytes = s.msgBytes := rfl
@[simp] theorem setDone_turns (s : State) (x : Bool) : (setDone s x).turns = s.turns := rfl
@[simp] theorem setDone_reads (s : State) (x : Bool) : (setDone s x).reads = s.reads := rfl
@[simp] theorem setDone_resets (s : State) (x : Bool) : (setDone s x).resets = s.resets := rfl

/-! ## returnRead -/

@[simp] theorem returnRead_v (s : State) (x : Word) : (returnRead s x).v = s.v := rfl
@[simp] theorem returnRead_h (s : State) (x : Word) : (returnRead s x).h = s.h := rfl
@[simp] theorem returnRead_w (s : State) (x : Word) : (returnRead s x).w = s.w := rfl
@[simp] theorem returnRead_blk (s : State) (x : Word) : (returnRead s x).blk = s.blk := rfl
@[simp] theorem returnRead_i (s : State) (x : Word) : (returnRead s x).i = s.i := rfl
@[simp] theorem returnRead_phase (s : State) (x : Word) : (returnRead s x).phase = s.phase := rfl
@[simp] theorem returnRead_t (s : State) (x : Word) : (returnRead s x).t = s.t := rfl
@[simp] theorem returnRead_done (s : State) (x : Word) : (returnRead s x).done = s.done := rfl
@[simp] theorem returnRead_len (s : State) (x : Word) : (returnRead s x).len = s.len := rfl
@[simp] theorem returnRead_digest (s : State) (x : Word) : (returnRead s x).digest = s.digest := rfl
@[simp] theorem returnRead_msg (s : State) (x : Word) : (returnRead s x).msg = s.msg := rfl
@[simp] theorem returnRead_msgBytes (s : State) (x : Word) : (returnRead s x).msgBytes = s.msgBytes := rfl
@[simp] theorem returnRead_turns (s : State) (x : Word) : (returnRead s x).turns = s.turns := rfl
@[simp] theorem returnRead_reads (s : State) (x : Word) : (returnRead s x).reads = x :: s.reads := rfl
@[simp] theorem returnRead_resets (s : State) (x : Word) : (returnRead s x).resets = s.resets := rfl

/-! ## resetEvent -/

@[simp] theorem resetEvent_v (s : State) : (resetEvent s).v = Config.freeV s.resets := rfl
@[simp] theorem resetEvent_h (s : State) : (resetEvent s).h = Config.freeH s.resets := rfl
@[simp] theorem resetEvent_w (s : State) : (resetEvent s).w = Config.freeW s.resets := rfl
@[simp] theorem resetEvent_blk (s : State) : (resetEvent s).blk = Config.freeBlk s.resets := rfl
@[simp] theorem resetEvent_i (s : State) : (resetEvent s).i = 0#56 := rfl
@[simp] theorem resetEvent_phase (s : State) : (resetEvent s).phase = 0x0#4 := rfl
@[simp] theorem resetEvent_t (s : State) : (resetEvent s).t = 0#6 := rfl
@[simp] theorem resetEvent_done (s : State) : (resetEvent s).done = false := rfl
@[simp] theorem resetEvent_len (s : State) : (resetEvent s).len = 0#64 := rfl
@[simp] theorem resetEvent_digest (s : State) : (resetEvent s).digest = Config.freeDigest s.resets := rfl
@[simp] theorem resetEvent_msg (s : State) : (resetEvent s).msg = s.msg := rfl
@[simp] theorem resetEvent_msgBytes (s : State) : (resetEvent s).msgBytes = s.msgBytes := rfl
@[simp] theorem resetEvent_turns (s : State) : (resetEvent s).turns = s.turns := rfl
@[simp] theorem resetEvent_reads (s : State) : (resetEvent s).reads = s.reads := rfl
@[simp] theorem resetEvent_resets (s : State) : (resetEvent s).resets = s.resets + 1 := rfl

end Sys2Proof.Machine
end

