-- ==== Sys2Proof/Laws/Ops.lean ====
section
/-! SUPPORT. What each shared operation can do. -/

namespace Sys2Proof.Machine

@[simp] theorem andThen_next {α β : Type} (a : α) (f : α → Result β) : Result.andThen (.next a) f = f a := rfl

@[simp] theorem andThen_fault {α β : Type} (e : Fault) (f : α → Result β) :
    Result.andThen (.fault e : Result α) f = .fault e := rfl

@[simp] theorem andThen_refused {α β : Type} (e : Refusal) (f : α → Result β) :
    Result.andThen (.refused e : Result α) f = .refused e := rfl

/-- A chain that answers a next value got one from its first part. -/
theorem andThen_eq_next {α β : Type} {r : Result α} {f : α → Result β} {b : β} (h : r.andThen f = .next b) :
    ∃ a, r = .next a ∧ f a = .next b := by
  cases r with
  | next a => exact ⟨a, rfl, h⟩
  | fault e => cases h
  | refused e => cases h

/-- BUSY is PHASE not IDLE. -/
theorem busy_iff (s : State) : busy s = true ↔ s.phase ≠ 0x0#4 := by simp [busy]

theorem not_busy_iff (s : State) : busy s = false ↔ s.phase = 0x0#4 := by simp [busy]

/-- MemRead below MSG_BYTES gives the listed byte. -/
theorem memRead_next {s : State} {a : Nat} (h : a < s.msgBytes.toNat) : memRead s a = .next (s.msg.read a) := by
  simp [memRead, Nat.not_le.mpr h]

/-- MemRead at or above MSG_BYTES faults. -/
theorem memRead_fault {s : State} {a : Nat} (h : s.msgBytes.toNat ≤ a) :
    memRead s a = .fault (.msgAddressAbsent a) := by
  simp [memRead, h]

/-- A host write that answers a next state wrote one existing byte, outside the message of a run. -/
theorem hostWriteMsg_next {s u : State} {a : BitVec 61} {b : Byte} (h : hostWriteMsg s a b = .next u) :
    a.toNat < s.msgBytes.toNat ∧ (s.phase = 0x0#4 ∨ s.len.toNat ≤ a.toNat) ∧
      u = { s with msg := s.msg.write a.toNat b } := by
  unfold hostWriteMsg at h
  split at h
  · cases h
  · rename_i h1
    split at h
    · cases h
    · rename_i h2
      refine ⟨by omega, ?_, by cases h; rfl⟩
      by_cases hb : s.phase = 0x0#4
      · exact .inl hb
      · simp [(busy_iff s).mpr hb] at h2
        exact .inr h2

/-- Before index 63 the sequencer counts on inside the phase. -/
theorem advance_lt {s : State} {p q : BitVec 4} {k k0 : BitVec 6} (h : k.toNat < 63) :
    advance s p k q k0 = setPos s p (k + 1#6) := by
  simp [advance, h]

/-- At index 63 it goes to the next phase. -/
theorem advance_last {s : State} {p q : BitVec 4} {k k0 : BitVec 6} (h : ¬ k.toNat < 63) :
    advance s p k q k0 = setPos s q k0 := by
  simp [advance, h]

/-- `advance` changes the position and nothing else. -/
theorem advance_eq (s : State) (p q : BitVec 4) (k k0 : BitVec 6) :
    advance s p k q k0 =
      { s with phase := if k.toNat < 63 then p else q, t := if k.toNat < 63 then k + 1#6 else k0 } := by
  unfold advance
  split <;> rfl

/-- Inside R127's domain padbyte reads the message below LEN and fills above, and never stops. -/
theorem padbyte_next {s : State} {j : BitVec 6} (h : PadDomain s) :
    padbyte s j =
      .next (if padPos s.i j < s.len.toNat then s.msg.read (padPos s.i j)
        else padFill s.len.toNat (padPos s.i j)) := by
  unfold padbyte
  split
  · rename_i hp
    exact memRead_next (by have := h.1.2; omega)
  · rfl

end Sys2Proof.Machine
end

