-- ==== Sys2Proof/Laws/PerInstr.lean ====
section
/-! SUPPORT. A family of statements, one per operation: its encoding has its format and its format's bytes. -/

namespace Sys2Proof.Laws.EncodingShape

/-- The word of an operation is of the operation's format and takes that format's bytes. -/
def Statement (i : Instr) : Prop :=
  (encode i).format = i.format ∧ (encode i).bytes.length = i.format.bytes

theorem start : Statement .start := ⟨rfl, rfl⟩
theorem wrCmdRsvd (data : Word) : Statement (.wrCmdRsvd data) := ⟨rfl, rfl⟩
theorem wrlenLo (v : Word) : Statement (.wrlenLo v) := ⟨rfl, rfl⟩
theorem wrlenHi (v : Word) : Statement (.wrlenHi v) := ⟨rfl, rfl⟩
theorem wrNop (addr : BitVec 4) (data : Word) : Statement (.wrNop addr data) := ⟨rfl, rfl⟩
theorem rdstat : Statement .rdstat := ⟨rfl, rfl⟩
theorem rdlenLo : Statement .rdlenLo := ⟨rfl, rfl⟩
theorem rdlenHi : Statement .rdlenHi := ⟨rfl, rfl⟩
theorem rdnblkLo : Statement .rdnblkLo := ⟨rfl, rfl⟩
theorem rdnblkHi : Statement .rdnblkHi := ⟨rfl, rfl⟩
theorem rddig (k : BitVec 3) : Statement (.rddig k) := ⟨rfl, rfl⟩
theorem rdZero (addr : BitVec 4) : Statement (.rdZero addr) := ⟨rfl, rfl⟩
theorem idle : Statement .idle := ⟨rfl, rfl⟩
theorem creInit : Statement .creInit := ⟨rfl, rfl⟩
theorem padByte (j : BitVec 6) : Statement (.padByte j) := ⟨rfl, rfl⟩
theorem msxLoad (t : BitVec 4) : Statement (.msxLoad t) := ⟨rfl, rfl⟩
theorem msxExp (t : BitVec 6) : Statement (.msxExp t) := ⟨rfl, rfl⟩
theorem creSeed : Statement .creSeed := ⟨rfl, rfl⟩
theorem creRound (r : BitVec 6) : Statement (.creRound r) := ⟨rfl, rfl⟩
theorem creFfwd : Statement .creFfwd := ⟨rfl, rfl⟩
theorem digOut : Statement .digOut := ⟨rfl, rfl⟩

end Sys2Proof.Laws.EncodingShape
end

