-- ==== Sys2Proof/Laws/Reference.lean ====
section
/-! SUPPORT. The reference functions, one equation each. -/

namespace Sys2Proof.Machine

@[simp] theorem refScheduleList_length (b : Vector Byte 64) (n : Nat) : (refScheduleList b n).length = n := by
  induction n with
  | zero => rfl
  | succ n ih => simp [refScheduleList, ih]

/-- A word of the schedule does not depend on how much of the schedule was computed. -/
theorem refScheduleList_getD {b : Vector Byte 64} {n t : Nat} (h : t < n) :
    (refScheduleList b n).getD t 0#32 = refSchedule b t := by
  induction n with
  | zero => omega
  | succ n ih =>
    by_cases ht : t < n
    · rw [← ih ht]
      simp only [refScheduleList, List.getD_eq_getElem?_getD]
      rw [List.getElem?_append_left (by simpa using ht)]
    · have : t = n := by omega
      subst this
      rfl

/-- The padded message depends on the message bytes only. -/
theorem refPadded_congr {m m' : Memory} {L p : Nat} (h : ∀ a, a < L → m'.read a = m.read a) :
    refPadded m' L p = refPadded m L p := by
  unfold refPadded
  split
  · exact h _ ‹_›
  · rfl

/-- So does every block of it. -/
theorem refBlock_congr {m m' : Memory} {L n : Nat} (h : ∀ a, a < L → m'.read a = m.read a) :
    refBlock m' L n = refBlock m L n := by
  simp only [refBlock, refPadded_congr h]

/-- So does the chained state. -/
theorem refChain_congr {m m' : Memory} {L n : Nat} (h : ∀ a, a < L → m'.read a = m.read a) :
    refChain m' L n = refChain m L n := by
  induction n with
  | zero => rfl
  | succ n ih => simp only [refChain, ih, refBlock_congr h]

/-- Byte j of a block. -/
@[simp] theorem refBlock_getElem (m : Memory) (L n j : Nat) (hj : j < 64) :
    (refBlock m L n)[j] = refPadded m L (64 * n + j) := by
  simp [refBlock]

end Sys2Proof.Machine
end

