-- ==== Sys2Proof/Laws/Step.lean ====
section
/-! SUPPORT. Everything a step and a host transaction can do, and how a run unrolls. -/

namespace Sys2Proof.Machine

/-- A step that answers a next state is one of four moves: the sequencer's, a host transaction, a host write of the
message memory, a reset event. -/
theorem step_next {s u : State} (h : step s = .next u) :
    (∃ i rest, (s.turns = [] ∧ rest = [] ∨ s.turns = .sequencer :: rest) ∧ decodeUop (s.phase ++ s.t) = .ok i ∧
      exec i { s with turns := rest } = .next u) ∨
    (∃ w rest, s.turns = .transaction w :: rest ∧ exec (decodeHt w) { s with turns := rest } = .next u) ∨
    (∃ a b rest, s.turns = .msgWrite a b :: rest ∧ hostWriteMsg { s with turns := rest } a b = .next u) ∨
    (∃ rest, s.turns = .reset :: rest ∧ u = resetEvent { s with turns := rest }) := by
  unfold step nextMove at h
  cases ht : s.turns with
  | nil =>
    refine .inl ?_
    have hs : ({ s with turns := [] } : State) = s := by rw [← ht]
    simp only [ht, sequencerMove, runCode, uopCode, uopWord] at h
    split at h
    · exact ⟨_, [], .inl ⟨rfl, rfl⟩, ‹_›, by rw [hs]; exact h⟩
    · cases h
  | cons e rest =>
    cases e with
    | sequencer =>
      refine .inl ?_
      simp only [ht, sequencerMove, runCode, uopCode, uopWord] at h
      split at h
      · exact ⟨_, rest, .inr rfl, ‹_›, h⟩
      · cases h
    | transaction w =>
      simp only [ht, runCode] at h
      exact .inr (.inl ⟨w, rest, rfl, h⟩)
    | msgWrite a b =>
      simp only [ht] at h
      exact .inr (.inr (.inl ⟨a, b, rest, rfl, h⟩))
    | reset =>
      simp only [ht] at h
      exact .inr (.inr (.inr ⟨rest, rfl, by cases h; rfl⟩))

/-- Everything a host transaction can do: answer a read, change LEN while idle, or begin a run. -/
theorem host_next {i : Instr} {s u : State} (hf : i.format = .ht) (h : exec i s = .next u) :
    (∃ x, u = { s with reads := x }) ∨ (s.phase = 0x0#4 ∧ ∃ l, u = { s with len := l }) ∨
    (s.phase = 0x0#4 ∧ LenInDomain s ∧ u = { s with done := false, i := 0#56, phase := 0x1#4, t := 0#6 }) := by
  cases i <;> simp only [Instr.format, reduceCtorEq] at hf
  case start =>
    simp only [exec, execStart] at h
    split at h
    · cases h
      exact .inl ⟨_, rfl⟩
    · rename_i hb
      split at h
      · cases h
      · split at h
        · cases h
        · cases h
          exact .inr (.inr ⟨by simpa [busy] using hb, ⟨by omega, by omega⟩, rfl⟩)
  case wrlenLo v =>
    simp only [exec, execWrlenLo, writeLen] at h
    split at h
    · cases h
      exact .inl ⟨_, rfl⟩
    · rename_i hb
      cases h
      exact .inr (.inl ⟨by simpa [busy] using hb, _, rfl⟩)
  case wrlenHi v =>
    simp only [exec, execWrlenHi, writeLen] at h
    split at h
    · cases h
      exact .inl ⟨_, rfl⟩
    · rename_i hb
      cases h
      exact .inr (.inl ⟨by simpa [busy] using hb, _, rfl⟩)
  all_goals
    cases h
    exact .inl ⟨_, rfl⟩

/-- A run whose first step answers a next state goes on from it, in the terms of `core`. -/
theorem core_run_next {k : Nat} {s u : core.State} (h : core.step s = .next u) : core.run (k + 1) s = core.run k u := by
  rw [Host.Core.run, h]

/-- The same in the machine's own terms: unroll a run with this, since `core.State` is `State` only by unfolding. -/
theorem run_next {k : Nat} {s u : State} (h : step s = .next u) : core.run (k + 1) s = core.run k u :=
  core_run_next h

/-- A run of no step stays where it is. -/
theorem run_zero (s : State) : core.run 0 s = .next s := rfl

end Sys2Proof.Machine
end

