-- ==== Sys2Proof/Tests/Slice0.lean ====
section
/-! SUPPORT. The model's own tests: ill-formed operations refused, words written bit by bit from 30_encoding.md decoded,
one-step vectors of 95_test_vectors.md, and one witness per statement that has hypotheses. -/

open Sys2Proof Sys2Proof.Machine

namespace Sys2Proof.Tests

/-! ## Helpers -/

/-- A small state: 1000 message bytes exist, none of them written. -/
def base : State := { State.reset with msgBytes := 1000#61 }

/-- `base` at a position. -/
def posn (p : BitVec 4) (t : BitVec 6) : State := { base with phase := p, t := t }

/-- `base` with a message and its length. -/
def holding (bytes : Memory) (len : BitVec 64) : State := { base with msg := bytes, len := len }

/-- The outcome is a next state with a property. -/
def next (r : Result State) (p : State → Bool) : Bool :=
  match r with
  | .next u => p u
  | .fault _ => false
  | .refused _ => false

/-- The outcome is a refusal, this one. -/
def refusedAs (r : Result State) (e : Refusal) : Bool :=
  match r with
  | .refused x => x == e
  | .next _ => false
  | .fault _ => false

/-- The word decodes to this operation. -/
def reads (c : Code) (i : Instr) : Bool :=
  match decode c with
  | .ok x => x == i
  | .error _ => false

/-- The code is refused under its own number. -/
def noPosition (c : BitVec 10) : Bool :=
  match decodeUop c with
  | .ok _ => false
  | .error e => e == .noSuchPosition c

/-! ## Well-formedness: an ill-formed term for each check -/

/-- R98: a write to CMD of 1 is START, not WR.CMD.RSVD. -/
theorem test_wf_wrCmdRsvd : (Instr.wrCmdRsvd 1#32).wf = false ∧ (Instr.wrCmdRsvd 0#32).wf = true := by decide

/-- R98: CMD, LEN_LO and LEN_HI are not WR.NOP's. -/
theorem test_wf_wrNop :
    (Instr.wrNop 0#4 5#32).wf = false ∧ (Instr.wrNop 2#4 5#32).wf = false ∧ (Instr.wrNop 3#4 5#32).wf = false ∧
    (Instr.wrNop 1#4 5#32).wf = true := by decide

/-- R98: STATUS and DIGEST0 are not RD.ZERO's. -/
theorem test_wf_rdZero :
    (Instr.rdZero 1#4).wf = false ∧ (Instr.rdZero 8#4).wf = false ∧ (Instr.rdZero 7#4).wf = true := by decide

/-- R99: the least index of MSX.EXP is 16. -/
theorem test_wf_msxExp : (Instr.msxExp 15#6).wf = false ∧ (Instr.msxExp 16#6).wf = true := by decide

/-! ## Decoding: words bit by bit, {we, addr[3:0], data[31:0]} and {PHASE[3:0], T[5:0]} (R95 to R99; V16) -/

theorem test_decode_start :
    reads (.ht 0b1000000000000000000000000000000000001#37) (.start) = true := by decide

theorem test_decode_wrCmdRsvd :
    reads (.ht 0b1000000000000000000000000000000000011#37) (.wrCmdRsvd 3#32) = true := by decide

theorem test_decode_wrlenLo :
    reads (.ht 0b1001000000000000000000000000000111000#37) (.wrlenLo 0x38#32) = true := by decide

theorem test_decode_wrlenHi :
    reads (.ht 0b1001111111111111111111111111111111111#37) (.wrlenHi 0xFFFFFFFF#32) = true := by decide

theorem test_decode_wrNop :
    reads (.ht 0b1100011111111111111111111111111111111#37) (.wrNop 8#4 0xFFFFFFFF#32) = true := by decide

theorem test_decode_rdstat :
    reads (.ht 0b0000111011110101011011011111011101111#37) (.rdstat) = true := by decide

theorem test_decode_rdlenLo :
    reads (.ht 0b0001000000000000000000000000000000000#37) (.rdlenLo) = true := by decide

theorem test_decode_rdlenHi :
    reads (.ht 0b0001100000000000000000000000000000000#37) (.rdlenHi) = true := by decide

theorem test_decode_rdnblkLo :
    reads (.ht 0b0010000000000000000000000000000000000#37) (.rdnblkLo) = true := by decide

theorem test_decode_rdnblkHi :
    reads (.ht 0b0010100000000000000000000000000000000#37) (.rdnblkHi) = true := by decide

theorem test_decode_rddig :
    reads (.ht 0b0101100000000000000000000000000000000#37) (.rddig 3#3) = true := by decide

theorem test_decode_rdZero :
    reads (.ht 0b0011000000000000000000000000000000000#37) (.rdZero 6#4) = true := by decide

theorem test_decode_idle : reads (.uop 0b0000000000#10) (.idle) = true := by decide

theorem test_decode_creInit : reads (.uop 0b0001000000#10) (.creInit) = true := by decide

theorem test_decode_padByte : reads (.uop 0b0010111111#10) (.padByte 63#6) = true := by decide

theorem test_decode_msxLoad : reads (.uop 0b0011001111#10) (.msxLoad 15#4) = true := by decide

theorem test_decode_msxExp : reads (.uop 0b0100010000#10) (.msxExp 16#6) = true := by decide

theorem test_decode_creSeed : reads (.uop 0b0101000000#10) (.creSeed) = true := by decide

theorem test_decode_creRound : reads (.uop 0b0110010001#10) (.creRound 17#6) = true := by decide

theorem test_decode_creFfwd : reads (.uop 0b0111000000#10) (.creFfwd) = true := by decide

theorem test_decode_digOut : reads (.uop 0b1000000000#10) (.digOut) = true := by decide

/-- R101: codes beside the positions are refused by name. -/
theorem test_decode_unused :
    noPosition 0b0000000001#10 = true ∧ noPosition 0b0011010000#10 = true ∧ noPosition 0b0100001111#10 = true ∧
    noPosition 0b1000000001#10 = true ∧ noPosition 0b1001000000#10 = true ∧ noPosition 0b1111111111#10 = true := by
  decide

/-- How the 1024 codes split: R101 counts 827 that are no position. -/
theorem test_unused_count : ((List.range 1024).filter fun n => noPosition (BitVec.ofNat 10 n)).length = 827 := by
  decide +kernel

/-! ## Host transactions (V16) -/

/-- V16 row 1: START on a state with DONE = 1, I = 2, LEN = 3. -/
theorem test_start_accepted :
    next (exec .start { base with done := true, i := 2#56, len := 3#64 }) (fun u =>
      !u.done && u.i == 0#56 && u.phase == 0x1#4 && u.t == 0#6 && u.len == 3#64) = true := by decide

/-- V16 row 2: START while busy changes nothing. -/
theorem test_start_busy : next (exec .start (posn 0x6#4 17#6)) (· == posn 0x6#4 17#6) = true := by decide

/-- V16: `wr LEN_LO, 0x38` keeps the high half. -/
theorem test_wrlenLo :
    next (exec (.wrlenLo 0x38#32) { base with len := 0x0000000100000003#64 }) (·.len == 0x0000000100000038#64) = true := by
  decide

/-- V16: `wr LEN_HI, 0xFFFFFFFF` is stored; a START then is outside the domain. -/
theorem test_wrlenHi :
    next (exec (.wrlenHi 0xFFFFFFFF#32) { base with len := 0x38#64 }) (fun u =>
      u.len == 0xFFFFFFFF00000038#64 && refusedAs (exec .start u) .startLengthTooLong) = true := by decide

/-- V16: a write to LEN while busy is dropped. -/
theorem test_wrlenLo_busy :
    next (exec (.wrlenLo 0x40#32) { posn 0x2#4 5#6 with len := 3#64 }) (·.len == 3#64) = true := by decide

/-- V16: `wr CMD, 3` and `wr DIGEST0, 0xFFFFFFFF` change nothing. -/
theorem test_writes_without_function :
    next (exec (.wrCmdRsvd 3#32) base) (· == base) = true ∧
    next (exec (.wrNop 8#4 0xFFFFFFFF#32) base) (· == base) = true := by decide

/-- V16: STATUS after reset, in a run, after a run. -/
theorem test_rdstat :
    next (exec .rdstat base) (·.reads == [0#32]) = true ∧
    next (exec .rdstat (posn 0x4#4 20#6)) (·.reads == [1#32]) = true ∧
    next (exec .rdstat { base with done := true }) (·.reads == [2#32]) = true := by decide

/-- V16: the halves of LEN. -/
theorem test_rdlen :
    next (exec .rdlenLo { base with len := 0x0000000100000038#64 }) (·.reads == [0x38#32]) = true ∧
    next (exec .rdlenHi { base with len := 0x0000000100000038#64 }) (·.reads == [1#32]) = true := by decide

/-- V16: the halves of I at its largest value. -/
theorem test_rdnblk :
    next (exec .rdnblkLo { base with i := 0x80000000000001#56 }) (·.reads == [1#32]) = true ∧
    next (exec .rdnblkHi { base with i := 0x80000000000001#56 }) (·.reads == [0x00800000#32]) = true := by decide

/-- The digest of "abc" (V2). -/
def abcDigest : Words8 :=
  #v[0xba7816bf#32, 0x8f01cfea#32, 0x414140de#32, 0x5dae2223#32, 0xb00361a3#32, 0x96177a9c#32, 0xb410ff61#32, 0xf20015ad#32]

/-- V16: DIGEST0 and DIGEST7. -/
theorem test_rddig :
    next (exec (.rddig 0#3) { base with digest := abcDigest }) (·.reads == [0xba7816bf#32]) = true ∧
    next (exec (.rddig 7#3) { base with digest := abcDigest }) (·.reads == [0xf20015ad#32]) = true := by decide

/-- V16: `rd 7` returns 0. -/
theorem test_rdZero : next (exec (.rdZero 7#4) base) (·.reads == [0#32]) = true := by decide

/-! ## PAD (V10, V17) -/

/-- What PAD.BYTE j stores for a message of L bytes 0x61 at block I, of which byte `a` is listed. -/
def padOf (L : BitVec 64) (I : BitVec 56) (a : Nat) (j : BitVec 6) : Option Byte :=
  match exec (.padByte j) { holding [(a, 0x61#8)] L with i := I, msgBytes := 0x1FFFFFFFFFFFFFFF#61 } with
  | .next u => some (entryByte u.blk j)
  | .fault _ => none
  | .refused _ => none
where
  /-- One byte of the block buffer. -/
  entryByte (b : Vector Byte 64) (j : BitVec 6) : Byte := b[j.toNat]'(j.isLt)

/-- V10 (b), L = 0, 55 and 56: marker, fill, message byte and length field at their boundaries. -/
theorem test_padByte_boundaries :
    padOf 0#64 0#56 0 0#6 = some 0x80#8 ∧ padOf 0#64 0#56 0 63#6 = some 0x00#8 ∧
    padOf 55#64 0#56 54 54#6 = some 0x61#8 ∧ padOf 55#64 0#56 54 55#6 = some 0x80#8 ∧
    padOf 55#64 0#56 54 56#6 = some 0x00#8 ∧ padOf 55#64 0#56 54 62#6 = some 0x01#8 ∧
    padOf 55#64 0#56 54 63#6 = some 0xb8#8 ∧ padOf 56#64 0#56 55 63#6 = some 0x00#8 ∧
    padOf 56#64 1#56 55 63#6 = some 0xc0#8 := by decide

/-- V10 (b) and (c), long messages: the length field reaches its upper bytes. -/
theorem test_padByte_long :
    padOf 65536#64 1024#56 0 0#6 = some 0x80#8 ∧ padOf 65536#64 1024#56 0 61#6 = some 0x08#8 ∧
    padOf 4294967296#64 67108864#56 0 59#6 = some 0x08#8 ∧
    padOf 0x1FFFFFFFFFFFFFFF#64 0x80000000000000#56 0 56#6 = some 0xff#8 ∧
    padOf 0x1FFFFFFFFFFFFFFF#64 0x80000000000000#56 0 63#6 = some 0xf8#8 := by decide

/-- V17 and V10 (c): the number of blocks. -/
theorem test_nBlocks :
    nBlocks 0 = 1 ∧ nBlocks 55 = 1 ∧ nBlocks 56 = 2 ∧ nBlocks 119 = 2 ∧ nBlocks 120 = 3 ∧ nBlocks 1000000 = 15626 ∧
    nBlocks 0x1FFFFFFFFFFFFFFF = 0x80000000000001 := by decide

/-! ## MSX (V11) -/

/-- V11 (a): the first byte is the most significant; from T = 15 on to (EXP, 16). -/
theorem test_msxLoad :
    next (exec (.msxLoad 0#4) { posn 0x3#4 0#6 with
        blk := (((base.blk.set 0 0x61#8).set 1 0x62#8).set 2 0x63#8).set 3 0x80#8 })
      (fun u => u.w[0] == 0x61626380#32 && u.phase == 0x3#4 && u.t == 1#6) = true ∧
    next (exec (.msxLoad 15#4) { posn 0x3#4 15#6 with blk := base.blk.set 63 0x18#8 })
      (fun u => u.w[15] == 0x18#32 && u.phase == 0x4#4 && u.t == 16#6) = true := by decide

/-- V11 (b) and (e), the schedule of "abc": MSX.EXP 31 with four terms that are not zero, and 27, whose sum wraps. -/
theorem test_msxExp :
    next (exec (.msxExp 31#6) { posn 0x4#4 31#6 with
        w := (((base.w.set 15 0x18#32).set 16 0x61626380#32).set 24 0xc8215c1a#32).set 29 0xec8726cb#32 })
      (fun u => u.w[31] == 0xd3b7973b#32 && u.phase == 0x4#4 && u.t == 32#6) = true ∧
    next (exec (.msxExp 27#6) { posn 0x4#4 27#6 with w := (base.w.set 20 0x3e9d7b78#32).set 25 0xb73679a2#32 })
      (fun u => u.w[27] == 0x32663c5b#32) = true := by decide

/-! ## Primitives and word functions (V14) -/

theorem test_rotr_shr :
    rotr 0x00000001#32 1 = 0x80000000#32 ∧ rotr 0xdeadbeef#32 16 = 0xbeefdead#32 ∧ rotr 0x80000001#32 7 = 0x03000000#32 ∧
    shr 0xffffffff#32 13 = 0x0007ffff#32 ∧ shr 0xdeadbeef#32 1 = 0x6f56df77#32 ∧
    add32 0x80000000#32 0x80000000#32 = 0x00000000#32 := by decide

theorem test_word_functions :
    ssig0 0xdeadbeef#32 = 0xabd31b0b#32 ∧ ssig1 0xdeadbeef#32 = 0x689dbfec#32 ∧
    bsig0 0xdeadbeef#32 = 0xb62e25ac#32 ∧ bsig1 0xdeadbeef#32 = 0x345e14a3#32 ∧
    ssig0 0xffffffff#32 = 0x1fffffff#32 ∧ ssig1 0xffffffff#32 = 0x003fffff#32 ∧
    ch 0x510e527f#32 0x9b05688c#32 0x1f83d9ab#32 = 0x1f85c98c#32 ∧
    maj 0x6a09e667#32 0xbb67ae85#32 0x3c6ef372#32 = 0x3a6fe667#32 ∧
    maj 0xf0f0f0f0#32 0xcccccccc#32 0xaaaaaaaa#32 = 0xe8e8e8e8#32 := by decide

/-! ## CRE (V12, V13) -/

/-- V12: H after CRE.INIT, word 0 and word 7. -/
theorem test_creInit :
    next (exec .creInit (posn 0x1#4 0#6)) (fun u =>
      u.h[0] == 0x6a09e667#32 && u.h[7] == 0x5be0cd19#32 && u.phase == 0x2#4 && u.t == 0#6) = true := by decide

/-- R161: CRE.SEED copies H into V and leaves H. -/
theorem test_creSeed :
    next (exec .creSeed { posn 0x5#4 0#6 with h := abcDigest }) (fun u =>
      u.v == abcDigest && u.h == abcDigest && u.phase == 0x6#4 && u.t == 0#6) = true := by decide

/-- V12, round 0 of "abc". -/
theorem test_creRound_abc :
    next (exec (.creRound 0#6) { posn 0x6#4 0#6 with v := ivRom, w := base.w.set 0 0x61626380#32 }) (fun u =>
      u.v == #v[0x5d6aebcd#32, 0x6a09e667#32, 0xbb67ae85#32, 0x3c6ef372#32,
                0xfa2a4622#32, 0x510e527f#32, 0x9b05688c#32, 0x1f83d9ab#32] && u.t == 1#6) = true := by decide

/-- V13 (f), row 7: one round on hand-made words. -/
theorem test_creRound_handmade :
    next (exec (.creRound 0#6) { posn 0x6#4 0#6 with
        v := #v[1#32, 2#32, 3#32, 4#32, 5#32, 6#32, 7#32, 8#32], w := base.w.set 0 0x80000000#32 }) (fun u =>
      u.v == #v[0x17323629#32, 1#32, 2#32, 3#32, 0xd72a322a#32, 5#32, 6#32, 7#32]) = true := by decide

/-- V12: CRE.FFWD of "abc"; the sums of words 1, 3 and 5 wrap, and the one block is the last. -/
theorem test_creFfwd_last :
    next (exec .creFfwd { posn 0x7#4 0#6 with
        len := 3#64, h := ivRom
        v := #v[0x506e3058#32, 0xd39a2165#32, 0x04d24d6c#32, 0xb85e2ce9#32,
                0x5ef50f24#32, 0xfb121210#32, 0x948d25b6#32, 0x961f4894#32] })
      (fun u => u.h.toList == abcDigest.toList && u.i == 1#56 && u.phase == 0x8#4 && u.t == 0#6) = true := by decide

/-- V13 (b): 56 bytes take a second block. -/
theorem test_creFfwd_more :
    next (exec .creFfwd { posn 0x7#4 0#6 with len := 56#64 }) (fun u =>
      u.i == 1#56 && u.phase == 0x2#4 && u.t == 0#6) = true := by decide

/-! ## OUT (V15) -/

/-- V15 (a). -/
theorem test_digOut :
    next (exec .digOut { posn 0x8#4 0#6 with h := abcDigest }) (fun u =>
      u.digest == abcDigest && u.done && u.phase == 0x0#4 && u.t == 0#6) = true := by decide

/-- V15 (b) and (c): the bytes and the text of the digest of "abc", in part. -/
theorem test_digest_bytes :
    (digestBytes abcDigest).take 5 = [0xba#8, 0x78#8, 0x16#8, 0xbf#8, 0x8f#8] ∧
    (digestBytes abcDigest)[31]? = some 0xad#8 := by decide

/-- V15 (d): leading zeros are kept. -/
theorem test_digest_text :
    hexDigest #v[0#32, 1#32, 0xa#32, 0xff#32, 0x0abcdef0#32, 0#32, 0x80000000#32, 0xffffffff#32] =
      "00000000000000010000000a000000ff0abcdef00000000080000000ffffffff".toList := by decide

/-! ## The sequencer -/

/-- IDLE keeps the state (R200). -/
theorem test_idle : next (exec .idle base) (· == base) = true := by decide

/-- A table row's word, placed, is what the next step runs. -/
theorem test_withFetchWord :
    next (step (State.reset.withFetchWord 40 0x1000000001)) (fun u => u.phase == 0x1#4) = true ∧
    next (step (State.reset.withFetchWord 16 0x200)) (fun u => u.done && u.turns == []) = true := by decide

/-! ## Witnesses: states and operands that meet the hypotheses of the statements, together, one per clause -/

/-- A decoded operation's word, bytes and operands at the ends of their ranges. -/
theorem witness_DecodeEncodeRoundTrip :
    (Instr.wrCmdRsvd 0#32).wf = true ∧ (Instr.wrNop 15#4 0xFFFFFFFF#32).wf = true ∧ (Instr.rdZero 7#4).wf = true ∧
    (Instr.msxExp 16#6).wf = true ∧ (Instr.msxExp 63#6).wf = true ∧ (Instr.padByte 63#6).wf = true ∧
    (Instr.rddig 7#3).wf = true ∧ Instr.digOut.wf = true := by decide

theorem witness_ByteDecodeEncodeRoundTrip :
    (Instr.msxExp 16#6).wf = true ∧ (encode (.msxExp 16#6)).bytes = [0x10#8, 0x01#8] ∧
    Instr.start.wf = true ∧ (encode .start).bytes = [0x01#8, 0#8, 0#8, 0#8, 0x10#8] := by decide

theorem witness_EncodeDecodeReturnsWord :
    reads (.uop 0x110#10) (.msxExp 16#6) = true ∧ (0x1FFFFFFFFF#37).getLsbD 36 = true ∧
    (0x0FFFFFFFFF#37).getLsbD 36 = false := by decide

theorem witness_DecodedOperationsAreWellFormed :
    decode (.ht 0x1000000000#37) = .ok (.wrCmdRsvd 0#32) ∧ decode (.ht 0x1FFFFFFFFF#37) = .ok (.wrNop 15#4 0xFFFFFFFF#32) ∧
    decode (.uop 0x13F#10) = .ok (.msxExp 63#6) ∧ decode (.uop 0x000#10) = .ok .idle := ⟨rfl, rfl, rfl, rfl⟩

/-- One state for each of the three clauses. -/
theorem witness_StepRunsDecodedOperation :
    ((posn 0x6#4 63#6).turns = [] ∧ decodeUop ((posn 0x6#4 63#6).phase ++ (posn 0x6#4 63#6).t) = .ok (.creRound 63#6)) ∧
    ({ posn 0x1#4 0#6 with turns := [.sequencer] }.turns = .sequencer :: [] ∧
      decodeUop ((posn 0x1#4 0#6).phase ++ (posn 0x1#4 0#6).t) = .ok .creInit) ∧
    { base with turns := [.transaction 0x1000000001#37] }.turns = .transaction 0x1000000001#37 :: [] :=
  ⟨⟨rfl, rfl⟩, ⟨rfl, rfl⟩, rfl⟩

/-- Positions just outside each phase's range, and an index just below MSX.EXP's. -/
theorem witness_UnusedPositionsAreRefused :
    (posn 0x9#4 0#6).turns = [] ∧ posLegal 0x0#4 1#6 = false ∧ posLegal 0x3#4 16#6 = false ∧
    posLegal 0x4#4 15#6 = false ∧ posLegal 0x8#4 1#6 = false ∧ posLegal 0x9#4 0#6 = false ∧
    posLegal 0xF#4 63#6 = false ∧ (15#6).toNat < 16 := by decide

theorem witness_PlacedWordIsFetchedNext :
    decodeTableWord 16 0x200 = some .digOut ∧ decodeTableWord 16 0x13F = some (.msxExp 63#6) ∧
    decodeTableWord 40 0x1000000001 = some .start ∧ decodeTableWord 40 0x1FFFFFFFFF = some (.wrNop 15#4 0xFFFFFFFF#32) :=
  ⟨rfl, rfl, rfl, rfl⟩

/-- Clause by clause: the largest accepted LEN of two sizes of memory, busy, and one above each bound. -/
theorem witness_StartBeginsRun :
    (let s : State := { base with len := 1000#64 };
      s.phase = 0x0#4 ∧ s.len.toNat ≤ 2 ^ 61 - 1 ∧ s.len.toNat ≤ s.msgBytes.toNat) ∧
    (let s : State := { base with len := 0x1FFFFFFFFFFFFFFF#64, msgBytes := 0x1FFFFFFFFFFFFFFF#61 };
      s.phase = 0x0#4 ∧ s.len.toNat ≤ 2 ^ 61 - 1 ∧ s.len.toNat ≤ s.msgBytes.toNat) ∧
    (posn 0x8#4 0#6).phase ≠ 0x0#4 ∧
    (let s : State := { base with len := 0x2000000000000000#64 };
      s.phase = 0x0#4 ∧ 2 ^ 61 ≤ s.len.toNat) ∧
    (let s : State := { base with len := 1001#64 };
      s.phase = 0x0#4 ∧ s.len.toNat ≤ 2 ^ 61 - 1 ∧ s.msgBytes.toNat < s.len.toNat) := by decide

/-- An idle state and a busy one: the two clauses of WRLEN, and of the writes dropped while busy. -/
theorem witness_WriteLenReplacesHalf : base.phase = 0x0#4 ∧ (posn 0x2#4 0#6).phase ≠ 0x0#4 := by decide

theorem witness_ReservedCommandDoesNothing : (0x00000000#32 : Word) ≠ 0x00000001#32 ∧ (0x00000003#32 : Word) ≠ 0x00000001#32 := by
  decide

theorem witness_AccessesWithNoFunction :
    (0x1#4 = 0x1#4 ∨ 0x4 ≤ (0x1#4).toNat) ∧ (0x4#4 = 0x1#4 ∨ 0x4 ≤ (0x4#4).toNat) ∧
    (0xF#4 = 0x1#4 ∨ 0x4 ≤ (0xF#4).toNat) ∧ (0x7#4 = 0x0#4 ∨ 0x7#4 = 0x6#4 ∨ 0x7#4 = 0x7#4) := by decide

/-- States that meet the control invariant: idle before a run, idle after one, busy at the last position. -/
theorem witness_StatusIsNeverBusyAndDone :
    ControlInv base ∧ ControlInv { base with done := true, i := 1#56 } ∧ ControlInv { posn 0x8#4 0#6 with i := 1#56 } := by
  decide

/-- The read word of each end of the map: CMD, DIGEST0 and DIGEST7. -/
theorem witness_EveryReadFollowsRegisterMap :
    next (exec (decodeHt (0#1 ++ 0x0#4 ++ 0#32)) base) (·.reads == [0#32]) = true ∧
    next (exec (decodeHt (0#1 ++ 0x5#4 ++ 0#32)) { base with i := 0xFF00000000000000#56 }) (·.reads == [0#32]) = true ∧
    (0x8#4).toNat = 0x8 + 0 ∧ (0xF#4).toNat = 0x8 + 7 := by decide

theorem witness_OnlyCmdAndLenWritesAct :
    ((0x1#4 : BitVec 4) ≠ 0x0#4 ∧ (0x1#4 : BitVec 4) ≠ 0x2#4 ∧ (0x1#4 : BitVec 4) ≠ 0x3#4) ∧
    next (exec (decodeHt (1#1 ++ 0x3#4 ++ 7#32)) base) (·.len == 0x0000000700000000#64) = true := by decide

theorem witness_HostCannotDisturbRun : Instr.start.format = .ht ∧ (posn 0x6#4 17#6).phase ≠ 0x0#4 := by decide

/-- A pair with no exclusion, and a pair at each of the two excluded operations that the exclusion leaves in. -/
theorem witness_HostAndSequencerCommute :
    (Instr.rdstat.format = .ht ∧ (Instr.creRound 17#6).format = .uop ∧ (posn 0x6#4 17#6).phase ≠ 0x0#4 ∧
      (Instr.creRound 17#6) ≠ .digOut ∧ (Instr.creRound 17#6) ≠ .creFfwd) ∧
    (Instr.rdlenLo.format = .ht ∧ Instr.digOut.format = .uop ∧ (posn 0x8#4 0#6).phase ≠ 0x0#4 ∧
      Instr.rdlenLo ≠ .start ∧ Instr.rdlenLo ≠ .rdstat ∧ (∀ v, Instr.rdlenLo ≠ .wrlenLo v) ∧
      (∀ v, Instr.rdlenLo ≠ .wrlenHi v) ∧ ∀ k, Instr.rdlenLo ≠ .rddig k) ∧
    ((Instr.rddig 0#3).format = .ht ∧ Instr.creFfwd.format = .uop ∧ (posn 0x7#4 0#6).phase ≠ 0x0#4 ∧
      Instr.rddig 0#3 ≠ .rdnblkLo ∧ Instr.rddig 0#3 ≠ .rdnblkHi) := by
  simp [Instr.format, posn]

theorem witness_SetlenStoresLength :
    let s : State := { base with turns := (AsmLine.setlen 0x1FFFFFFFFFFFFFFF#64).moves ++ [.sequencer] }
    s.phase = 0x0#4 ∧ s.turns = (AsmLine.setlen 0x1FFFFFFFFFFFFFFF#64).moves ++ [.sequencer] ∧ s.turns.length = 3 := by
  decide

/-- The bound of the domain, where NB is largest. -/
theorem witness_BlockCountIsCeiling : nBlocks (2 ^ 61 - 1) = 2 ^ 55 + 1 := by decide

/-- The four bytes of R121 each occur inside the domain: message, marker, fill, length field. -/
theorem witness_PadByteStoresPaddedByte :
    (let s := holding [(0, 0x61#8)] 1#64;
      s.len.toNat ≤ 2 ^ 61 - 1 ∧ s.len.toNat ≤ s.msgBytes.toNat ∧ s.i.toNat < (s.len.toNat + 8) / 64 + 1) ∧
    padOf 1#64 0#56 0 0#6 = some 0x61#8 ∧ padOf 1#64 0#56 0 1#6 = some 0x80#8 ∧
    padOf 1#64 0#56 0 55#6 = some 0x00#8 ∧ padOf 1#64 0#56 0 63#6 = some 0x08#8 := by decide

/-- Bits of each of the four regions of the padded message of one byte, at block 0. -/
theorem witness_PaddedBitLayout :
    (let s := holding [(0, 0x61#8)] 1#64;
      s.len.toNat ≤ 2 ^ 61 - 1 ∧ s.len.toNat ≤ s.msgBytes.toNat ∧ s.i.toNat < nBlocks s.len.toNat ∧
      next (exec (.padByte 0#6) s) (fun _ => true) = true) ∧
    8 * (64 * 0 + 0) + 7 < 8 * 1 ∧ 8 * (64 * 0 + 1) + 0 = 8 * 1 ∧
    (8 * 1 < 8 * (64 * 0 + 1) + 1 ∧ 8 * (64 * 0 + 55) + 7 < 512 * nBlocks 1 - 64) ∧
    512 * nBlocks 1 - 64 ≤ 8 * (64 * 0 + 56) + 0 := by decide

/-- One state for each way out of the domain, at its bound. -/
theorem witness_PadByteOutsideDomainIsRefused :
    refusedAs (exec (.padByte 0#6) { base with len := 0x2000000000000000#64 }) .padOutsideDomain = true ∧
    refusedAs (exec (.padByte 0#6) { base with len := 1001#64 }) .padOutsideDomain = true ∧
    refusedAs (exec (.padByte 0#6) { base with i := 1#56 }) .padOutsideDomain = true := by decide

theorem witness_MsxExpComputesRecurrence : 16 ≤ (16#6).toNat ∧ 16 ≤ (63#6).toNat := by decide

theorem witness_RomWordsArePrimeRoots :
    [2, 3, 5, 7, 11, 13, 17, 19][7]? = some 19 ∧ (4 * 2 ^ 32 + ivRom[7].toNat) ^ 2 ≤ 19 * 2 ^ 64 ∧
    19 * 2 ^ 64 < (4 * 2 ^ 32 + ivRom[7].toNat + 1) ^ 2 ∧ (6 * 2 ^ 32 + kRom[63].toNat) ^ 3 ≤ 311 * 2 ^ 96 ∧
    311 * 2 ^ 96 < (6 * 2 ^ 32 + kRom[63].toNat + 1) ^ 3 := by decide

theorem witness_PrimitivesMatchArithmetic :
    (rotr 0xdeadbeef#32 31).toNat = 0xdeadbeef / 2 ^ 31 + 0xdeadbeef % 2 ^ 31 * 2 ^ (32 - 31) ∧
    (shr 0xdeadbeef#32 1).toNat = 0xdeadbeef / 2 ^ 1 := by decide

theorem witness_WordFunctionsBitByBit :
    (ssig0 0x80000001#32).getLsbD 31 = ((0x80000001#32).getLsbD 6 ^^ (0x80000001#32).getLsbD 17 ^^ false) ∧
    (bsig1 0x00000040#32).getLsbD 0 = true := by decide

theorem witness_DigestBytesLayout :
    (digestBytes abcDigest)[4 * 7 + 3]? = some (abcDigest[7].extractLsb' (24 - 8 * 3) 8) ∧
    (digestBytes abcDigest)[4 * 0 + 0]? = some 0xba#8 := by decide

theorem witness_HexDigestLayout :
    (hexDigest abcDigest)[8 * 7 + 7]? = some 'd' ∧ (hexDigest abcDigest)[8 * 0 + 0]? = some 'b' := by decide

theorem witness_IdleKeepsAllState : base.turns = [] ∧ base.phase = 0x0#4 ∧ base.t = 0#6 := by decide

/-- From position (p, t), with I = `i` and LEN = `len`, the sequencer's operation leads to (q, t'). -/
def leads (p : BitVec 4) (t : BitVec 6) (i : BitVec 56) (len : BitVec 64) (q : BitVec 4) (t' : BitVec 6) : Bool :=
  next (step { posn p t with i := i, len := len }) (fun u => u.phase == q && u.t == t')

/-- Every clause of R201's table at the ends of its range, both outcomes of CRE.FFWD among them. -/
theorem witness_SuccessorOfEveryPosition :
    leads 0x0#4 0#6 0#56 0#64 0x0#4 0#6 = true ∧ leads 0x1#4 0#6 0#56 0#64 0x2#4 0#6 = true ∧
    leads 0x2#4 0#6 0#56 0#64 0x2#4 1#6 = true ∧ leads 0x2#4 62#6 0#56 0#64 0x2#4 63#6 = true ∧
    leads 0x2#4 63#6 0#56 0#64 0x3#4 0#6 = true ∧ leads 0x3#4 14#6 0#56 0#64 0x3#4 15#6 = true ∧
    leads 0x3#4 15#6 0#56 0#64 0x4#4 16#6 = true ∧ leads 0x4#4 16#6 0#56 0#64 0x4#4 17#6 = true ∧
    leads 0x4#4 62#6 0#56 0#64 0x4#4 63#6 = true ∧ leads 0x4#4 63#6 0#56 0#64 0x5#4 0#6 = true ∧
    leads 0x5#4 0#6 0#56 0#64 0x6#4 0#6 = true ∧ leads 0x6#4 62#6 0#56 0#64 0x6#4 63#6 = true ∧
    leads 0x6#4 63#6 0#56 0#64 0x7#4 0#6 = true ∧ leads 0x7#4 0#6 0#56 56#64 0x2#4 0#6 = true ∧
    leads 0x7#4 0#6 1#56 56#64 0x8#4 0#6 = true ∧ leads 0x8#4 0#6 1#56 0#64 0x0#4 0#6 = true := by decide

/-- Two states that agree on the position and LEN and differ in the message and the datapath. -/
theorem witness_PositionsDependOnLengthOnly :
    let s1 : State := { posn 0x2#4 5#6 with len := 3#64 }
    let s2 : State := { s1 with msg := [(0, 0x61#8)], h := abcDigest, v := abcDigest }
    (Instr.padByte 5#6).format = .uop ∧ s1.phase = s2.phase ∧ s1.t = s2.t ∧ s1.i = s2.i ∧ s1.len = s2.len ∧
    next (exec (.padByte 5#6) s1) (fun _ => true) = true ∧ next (exec (.padByte 5#6) s2) (fun _ => true) = true := by
  decide

/-- A run's first position, a position inside a block and its last position; and a state that START starts from. -/
theorem witness_RunTakesExactStepCount :
    (ControlInv (posn 0x1#4 0#6) ∧ (posn 0x1#4 0#6).phase ≠ 0x0#4 ∧ (posn 0x1#4 0#6).turns = [] ∧
      remaining (posn 0x1#4 0#6) = 196) ∧
    (ControlInv { posn 0x7#4 0#6 with len := 56#64 } ∧ remaining { posn 0x7#4 0#6 with len := 56#64 } = 196) ∧
    (ControlInv { posn 0x8#4 0#6 with i := 1#56, turns := [.sequencer] } ∧
      remaining { posn 0x8#4 0#6 with i := 1#56, turns := [.sequencer] } = 1) ∧
    next (exec .start { base with len := 56#64 }) (fun u => remaining u == 2 + 194 * 2) = true := by
  refine ⟨⟨?_, ?_, ?_, ?_⟩, ⟨?_, ?_⟩, ⟨?_, ?_⟩, ?_⟩ <;> decide

/-- Each register is changed by the operations named for it. -/
theorem witness_RegisterWriters :
    next (exec .creSeed { base with h := abcDigest }) (fun u => u.v != base.v) = true ∧
    next (exec .creInit base) (fun u => u.h != base.h) = true ∧
    next (exec (.msxLoad 15#4) { base with blk := base.blk.set 63 1#8 }) (fun u => u.w[15] != base.w[15]) = true ∧
    next (exec (.msxExp 63#6) { base with w := base.w.set 47 1#32 }) (fun u => u.w[63] != base.w[63]) = true ∧
    next (exec (.padByte 0#6) base) (fun u => u.blk[0] != base.blk[0]) = true ∧
    next (exec .creFfwd base) (fun u => u.i != base.i && u.phase != base.phase) = true ∧
    next (exec .digOut { base with h := abcDigest }) (fun u => u.done != base.done && u.digest != base.digest) = true ∧
    next (exec (.wrlenLo 1#32) base) (fun u => u.len != base.len) = true ∧
    next (exec .rdstat base) (fun u => u.reads != base.reads) = true := by decide

theorem witness_NoOperationWritesMemory :
    next (exec .digOut (holding [(0, 0x61#8)] 1#64)) (fun u => u.msg == [(0, 0x61#8)]) = true ∧
    next (exec (.padByte 0#6) (holding [(0, 0x61#8)] 1#64)) (fun u => u.msg == [(0, 0x61#8)]) = true := by decide

/-- The last address that exists and the first that does not. -/
theorem witness_MemReadGivesListedByte : 999 < base.msgBytes.toNat ∧ base.msgBytes.toNat ≤ 1000 := by decide

/-- Two memories that differ at LEN and agree below it. -/
theorem witness_BytesAboveLenNeverMatter :
    let s := holding [(0, 0x61#8)] 1#64
    let m : Memory := [(0, 0x61#8), (1, 0x62#8)]
    (∀ a, a < s.len.toNat → m.read a = s.msg.read a) ∧ m.read 1 ≠ s.msg.read 1 := by decide

/-- An idle host write at address 0, and one during a run at address LEN. -/
theorem witness_HostMessageWriteChangesOneByte :
    (let s : State := { base with turns := [.msgWrite 0#61 0x61#8] };
      s.turns = .msgWrite 0#61 0x61#8 :: [] ∧ (0#61).toNat < s.msgBytes.toNat ∧ s.phase = 0x0#4 ∧ s.msg.wf = true) ∧
    (let s : State := { posn 0x6#4 0#6 with len := 999#64, turns := [.msgWrite 999#61 0x61#8] };
      s.turns = .msgWrite 999#61 0x61#8 :: [] ∧ (999#61).toNat < s.msgBytes.toNat ∧ s.len.toNat ≤ (999#61).toNat ∧
      s.msg.wf = true) := by decide

/-- The first address that does not exist, and the last of the message during a run. -/
theorem witness_ForbiddenMessageWritesStop :
    (let s : State := { base with turns := [.msgWrite 1000#61 0x61#8] };
      s.turns = .msgWrite 1000#61 0x61#8 :: [] ∧ s.msgBytes.toNat ≤ (1000#61).toNat) ∧
    (let s : State := { posn 0x6#4 0#6 with len := 3#64, turns := [.msgWrite 2#61 0x61#8] };
      s.turns = .msgWrite 2#61 0x61#8 :: [] ∧ (2#61).toNat < s.msgBytes.toNat ∧ s.phase ≠ 0x0#4 ∧
      (2#61).toNat < s.len.toNat) := by decide

/-- A step of a run that is a host's write above the message. -/
theorem witness_MessageIsFixedDuringRun :
    let s : State := { posn 0x6#4 0#6 with len := 3#64, turns := [.msgWrite 3#61 0x61#8] }
    s.phase ≠ 0x0#4 ∧ next (step s) (fun u => u.msg != s.msg && u.len == s.len) = true := by decide

/-- A reset event during a run. -/
theorem witness_ResetEventClearsControl :
    let s : State := { posn 0x6#4 17#6 with len := 3#64, turns := [.reset] }
    s.turns = .reset :: [] ∧ next (step s) (fun u => u.phase == 0x0#4 && u.len == 0#64) = true := by decide

/-- A state of the control invariant with a next state: START at the end of the domain of this memory. -/
theorem witness_StepKeepsInvariant :
    ControlInv { base with len := 1000#64, turns := [.transaction 0x1000000001#37] } ∧
    next (step { base with len := 1000#64, turns := [.transaction 0x1000000001#37] }) (·.phase == 0x1#4) = true := by
  decide

/-- A state of a run's data invariant, at CRE.SEED of the first block, with a next state. -/
theorem witness_StepKeepsRunData :
    let s : State := { posn 0x2#4 0#6 with h := ivRom }
    RunInv s ∧ next (step s) (fun u => u.blk[0] == 0x80#8) = true := by
  refine ⟨⟨by decide, fun _ => rfl, ?_, ?_, ?_, ?_, ?_, ?_⟩, by decide⟩
  · intro _ k _ h
    exact absurd h (Nat.not_lt_zero k)
  all_goals simp [posn]

/-- A state of the data invariant at (OUT, 0): the empty message's. -/
theorem witness_DigOutGivesDigestOfMessage :
    let s : State := { posn 0x8#4 0#6 with i := 1#56, h := refChain [] 0 1 }
    RunInv s ∧ s.phase = 0x8#4 := by
  refine ⟨⟨?_, fun _ => rfl, ?_, ?_, ?_, ?_, ?_, ?_⟩, rfl⟩
  · refine ⟨rfl, rfl, ?_, ?_, ?_, ?_, ?_, ?_, ?_⟩ <;> simp [posn, base, State.reset, inBlock, nBlocks, LenInDomain]
  all_goals simp [posn]

theorem witness_RunComputesDigest :
    let s := holding [(0, 0x61#8), (1, 0x62#8), (2, 0x63#8)] 3#64
    ControlInv s ∧ s.turns = [] ∧ s.phase = 0x0#4 ∧ next (exec .start s) (fun _ => true) = true := by decide

theorem witness_ScheduleIsRecurrence :
    refSchedule (base.blk.set 63 0x18#8) 15 = 0x18#32 ∧ refSchedule (base.blk.set 63 0x18#8) 17 = 0x000f0000#32 := by
  decide

end Sys2Proof.Tests
end

section
/-! SUPPORT. Proofs of the scope family (00_scope.md R8, R10, R12): which operation a step runs, and the primitives and
word functions on numbers and bit by bit. -/

namespace Sys2Proof

/-! ## A table row's word -/

/-- The word of a format that a number's low bits spell, the bits above it dropped. -/
def Format.lowCode : Format → Nat → Code
  | .ht, x => .ht (BitVec.ofNat 37 x)
  | .uop, x => .uop (BitVec.ofNat 10 x)

/-- A number that `codeOfNat` accepts gives the word its low bits spell. -/
theorem codeOfNat_eq_ok {f : Format} {x : Nat} {c : Code} (h : codeOfNat f x = .ok c) : c = f.lowCode x := by
  cases f <;>
  · simp only [codeOfNat] at h
    split at h
    · cases h
      rfl
    · cases h

/-- The bytes a format takes hold every bit of its word. -/
theorem lowCode_mod_bytes (f : Format) (x : Nat) : f.lowCode (x % 256 ^ f.bytes) = f.lowCode x := by
  cases f with
  | ht => exact congrArg Code.ht (BitVec.eq_of_toNat_eq (Nat.mod_mod_of_dvd x (by decide)))
  | uop => exact congrArg Code.uop (BitVec.eq_of_toNat_eq (Nat.mod_mod_of_dvd x (by decide)))

/-- An operation decoded from bytes is what the word they spell stands for. -/
theorem decode_of_decodeBytes {f : Format} {bs rest : List Byte} {i : Instr} (h : decodeBytes f bs = .ok (i, rest)) :
    decode (f.lowCode (bytesToNat (bs.take f.bytes))) = .ok i := by
  unfold decodeBytes at h
  split at h
  · cases h
  · split at h
    · cases h
    · rename_i c hc
      rw [← codeOfNat_eq_ok hc]
      split at h
      · cases h
      · rename_i hd
        cases h
        exact hd

/-- The operation of a table row's word is what the word's low bits stand for. -/
theorem decode_of_decodeTableWord {nbits w : Nat} {i : Instr} (h : decodeTableWord nbits w = some i) :
    decode ((tableFormat nbits).lowCode w) = .ok i := by
  unfold decodeTableWord at h
  split at h
  · rename_i hb
    cases h
    have hd := decode_of_decodeBytes hb
    rwa [List.take_of_length_le (natToBytes_length _ _).le, bytesToNat_natToBytes, lowCode_mod_bytes] at hd
  · cases h

end Sys2Proof

namespace Sys2Proof.Machine

/-! ## The step -/

/-- A code that is a position of the control program runs the operation the position names. -/
theorem runCode_uop {c : BitVec 10} {i : Instr} (h : decodeUop c = .ok i) (s : State) :
    runCode (.uop c) s = exec i s := by
  simp only [runCode, h]

/-- With no pending move the sequencer moves. -/
theorem step_of_turns_nil {s : State} (ht : s.turns = []) : step s = runCode (.uop (uopCode s)) s := by
  simp only [step, nextMove, ht, sequencerMove]

/-- A pending move of the sequencer is taken off the list and made. -/
theorem step_of_turns_sequencer {s : State} {rest : List Turn} (ht : s.turns = .sequencer :: rest) :
    step s = runCode (.uop (uopCode s)) { s with turns := rest } := by
  simp only [step, nextMove, ht, sequencerMove, uopCode]

/-- A pending host transaction is taken off the list and made. -/
theorem step_of_turns_transaction {s : State} {rest : List Turn} {w : BitVec 37}
    (ht : s.turns = .transaction w :: rest) : step s = exec (decodeHt w) { s with turns := rest } := by
  simp only [step, nextMove, ht, runCode]

/-- Settles O8, one step equation per head of the pending list. -/
theorem stepRunsDecodedOperation : Obligations.StepRunsDecodedOperation := by
  refine ⟨fun s i ht hd => ?_, fun s rest i ht hd => ?_, fun s rest w ht => step_of_turns_transaction ht⟩
  · rw [step_of_turns_nil ht]
    exact runCode_uop hd s
  · rw [step_of_turns_sequencer ht]
    exact runCode_uop hd _

/-- Placing a word of up to 16 bits sets the position and makes the sequencer's move the next. -/
theorem withFetchWord_uop (s : State) {nbits : Nat} (w : Nat) (h : nbits ≤ 16) :
    s.withFetchWord nbits w =
      { s with
        phase := uopPhase (BitVec.ofNat 10 w), t := uopIdx (BitVec.ofNat 10 w), turns := .sequencer :: s.turns } := by
  simp only [State.withFetchWord, placeWord, tableFormat, h, if_true]

/-- Placing a longer word makes it the host's next transaction. -/
theorem withFetchWord_ht (s : State) {nbits : Nat} (w : Nat) (h : ¬ nbits ≤ 16) :
    s.withFetchWord nbits w = { s with turns := .transaction (BitVec.ofNat 37 w) :: s.turns } := by
  simp only [State.withFetchWord, placeWord, tableFormat, h, if_false]

/-- Settles O10: the decoder of table words and the placing keep the same low bits, and the step takes the placed move
off the pending list again. -/
theorem placedWordIsFetchedNext : Obligations.PlacedWordIsFetchedNext := by
  intro s nbits w i hi
  have hd := decode_of_decodeTableWord hi
  by_cases h : nbits ≤ 16
  · simp only [tableFormat, h, if_true, Format.lowCode, decode] at hd
    rw [← uopWord_fields (BitVec.ofNat 10 w)] at hd
    rw [if_pos h, withFetchWord_uop s w h, step_of_turns_sequencer rfl]
    exact runCode_uop hd _
  · simp only [tableFormat, h, if_false, Format.lowCode, decode, Except.ok.injEq] at hd
    rw [if_neg h, withFetchWord_ht s w h, step_of_turns_transaction rfl, hd]

/-! ## The primitives on numbers -/

theorem toNat_add32 (x y : Word) : (add32 x y).toNat = (x.toNat + y.toNat) % 2 ^ 32 := BitVec.toNat_add x y

theorem toNat_shr (x : Word) (n : Nat) : (shr x n).toNat = x.toNat / 2 ^ n := by
  rw [shr, BitVec.toNat_ushiftRight, Nat.shiftRight_eq_div_pow]

/-- The bits a left shift by 32 - n keeps are the low n. -/
theorem shiftLeft_mod_word {n : Nat} (x : Nat) (h : n ≤ 32) :
    x <<< (32 - n) % 2 ^ 32 = (x % 2 ^ n) <<< (32 - n) := by
  have hp : 2 ^ 32 = 2 ^ n * 2 ^ (32 - n) := by rw [← Nat.pow_add, Nat.add_sub_cancel' h]
  rw [Nat.shiftLeft_eq, Nat.shiftLeft_eq, hp, Nat.mul_mod_mul_right]

/-- The two halves of a rotation occupy disjoint bits, so their OR is their sum. -/
theorem toNat_rotr {n : Nat} (x : Word) (h : n < 32) :
    (rotr x n).toNat = x.toNat / 2 ^ n + x.toNat % 2 ^ n * 2 ^ (32 - n) := by
  have hlow : x.toNat / 2 ^ n < 2 ^ (32 - n) := by
    refine Nat.div_lt_of_lt_mul ?_
    rw [← Nat.pow_add, Nat.add_sub_cancel' h.le]
    exact x.isLt
  calc (rotr x n).toNat
      = x.toNat >>> n ||| x.toNat <<< (32 - n) % 2 ^ 32 := by
        rw [rotr, BitVec.toNat_rotateRight, Nat.mod_eq_of_lt h]
    _ = (x.toNat % 2 ^ n) <<< (32 - n) ||| x.toNat / 2 ^ n := by
        rw [shiftLeft_mod_word _ h.le, Nat.shiftRight_eq_div_pow, Nat.or_comm]
    _ = (x.toNat % 2 ^ n) <<< (32 - n) + x.toNat / 2 ^ n := (Nat.shiftLeft_add_eq_or_of_lt hlow _).symm
    _ = x.toNat / 2 ^ n + x.toNat % 2 ^ n * 2 ^ (32 - n) := by rw [Nat.shiftLeft_eq, Nat.add_comm]

/-- Settles O37: the primitives are the library's word operations, rotation by the disjointness of its halves. -/
theorem primitivesMatchArithmetic : Obligations.PrimitivesMatchArithmetic :=
  ⟨toNat_add32, fun x y z => ⟨BitVec.add_comm x y, (BitVec.add_assoc x y z).symm⟩,
    fun x _ _ hn => toNat_rotr x hn, fun x n _ _ => toNat_shr x n,
    fun _ _ _ => BitVec.getLsbD_xor, fun _ _ _ => BitVec.getLsbD_and, fun _ => BitVec.toNat_not⟩

/-! ## The word functions bit by bit -/

theorem getLsbD_shr (x : Word) (n k : Nat) : (shr x n).getLsbD k = x.getLsbD (k + n) := by
  rw [shr, BitVec.getLsbD_ushiftRight, Nat.add_comm]

/-- Bit k of a rotation is the bit n places up, round the end of the word. -/
theorem getLsbD_rotr {n k : Nat} (x : Word) (hn : n < 32) (hk : k < 32) :
    (rotr x n).getLsbD k = x.getLsbD ((k + n) % 32) := by
  rw [rotr, BitVec.getLsbD_rotateRight_of_lt hn]
  by_cases h : k < 32 - n
  · have hi : (k + n) % 32 = n + k := by omega
    simp [h, hi]
  · have hi : (k + n) % 32 = k - (32 - n) := by omega
    simp [h, hk, hi]

/-- R12's truth table of ch: x selects y or z. -/
theorem getLsbD_ch {k : Nat} (x y z : Word) (hk : k < 32) :
    (ch x y z).getLsbD k = if x.getLsbD k then y.getLsbD k else z.getLsbD k := by
  simp only [ch, BitVec.getLsbD_xor, BitVec.getLsbD_and, BitVec.getLsbD_not, hk]
  cases x.getLsbD k <;> simp

/-- R12's truth table of maj on one bit: two of the three hold. -/
theorem maj_bit (a b c : Bool) :
    ((a && b) ^^ (a && c) ^^ (b && c)) = decide (2 ≤ a.toNat + b.toNat + c.toNat) := by
  revert a b c
  decide

theorem getLsbD_maj (x y z : Word) (k : Nat) :
    (maj x y z).getLsbD k = decide (2 ≤ (x.getLsbD k).toNat + (y.getLsbD k).toNat + (z.getLsbD k).toNat) := by
  simp only [maj, BitVec.getLsbD_xor, BitVec.getLsbD_and, maj_bit]

/-- Settles O38: each sigma is an XOR of moved bits, and ch and maj are their truth tables. -/
theorem wordFunctionsBitByBit : Obligations.WordFunctionsBitByBit := by
  intro x y z k hk
  refine ⟨?_, ?_, ?_, ?_, getLsbD_ch x y z hk, getLsbD_maj x y z k⟩
  · simp only [ssig0, BitVec.getLsbD_xor, getLsbD_rotr, getLsbD_shr, hk, Nat.reduceLT]
  · simp only [ssig1, BitVec.getLsbD_xor, getLsbD_rotr, getLsbD_shr, hk, Nat.reduceLT]
  · simp only [bsig0, BitVec.getLsbD_xor, getLsbD_rotr, hk, Nat.reduceLT]
  · simp only [bsig1, BitVec.getLsbD_xor, getLsbD_rotr, hk, Nat.reduceLT]

end Sys2Proof.Machine
end

section
/-! SUPPORT. Proofs of the state family (10_state.md R20 to R39): what each operation writes, the control invariant and
the data invariant that every step keeps, the reset state, and where the words of the ROMs come from. -/

namespace Sys2Proof.Machine

/-! ## What an operation that completes does

`HostEffect` and `UopEffect` say it once for every operation; `hostEffect_of_exec` and `uopEffect_of_exec` tie them to
`exec`, and the proofs below split along their constructors. -/

/-- What a host transaction that completes leaves behind. -/
inductive HostEffect (s : State) : Instr → State → Prop where
  /-- A read that is answered, or a write without effect. -/
  | answer (i : Instr) (x : List Word) : HostEffect s i { s with reads := x }
  /-- A write of the low half of LEN while idle. -/
  | wrlenLo (v : Word) (hidle : s.phase = Phase.idle) : HostEffect s (.wrlenLo v) (setLen s (lenWithLo s.len v))
  /-- A write of the high half of LEN while idle. -/
  | wrlenHi (v : Word) (hidle : s.phase = Phase.idle) : HostEffect s (.wrlenHi v) (setLen s (lenWithHi s.len v))
  /-- An accepted START. -/
  | start (hidle : s.phase = Phase.idle) (hdom : LenInDomain s) :
      HostEffect s .start (setPos (setI (setDone s false) 0#56) Phase.init 0#6)

/-- What a micro-operation that completes leaves behind. -/
inductive UopEffect (s : State) : Instr → State → Prop where
  | idle : UopEffect s .idle s
  | creInit : UopEffect s .creInit (setPos (setH s ivRom) Phase.padb 0#6)
  | padByte (j : BitVec 6) (hdom : PadDomain s) :
      UopEffect s (.padByte j)
        (advance (setBlk s j (refPadded s.msg s.len.toNat (padPos s.i j))) Phase.padb j Phase.load 0#6)
  | msxLoad (t : BitVec 4) :
      UopEffect s (.msxLoad t) (setPos (setW s (loadIdx t) (blockWord s.blk t))
        (if t.toNat < 15 then Phase.load else Phase.exp) (if t.toNat < 15 then loadIdx t + 1#6 else 16#6))
  | msxExp (t : BitVec 6) (ht : 16 ≤ t.toNat) :
      UopEffect s (.msxExp t)
        (advance (setW s t (expandWord (entry s.w (t - 16#6)) (entry s.w (t - 15#6)) (entry s.w (t - 7#6))
          (entry s.w (t - 2#6)))) Phase.exp t Phase.seed 0#6)
  | creSeed : UopEffect s .creSeed (setPos (setV s s.h) Phase.round 0#6)
  | creRound (r : BitVec 6) :
      UopEffect s (.creRound r)
        (advance (setV s (roundFn s.v (entry kRom r) (entry s.w r))) Phase.round r Phase.ffwd 0#6)
  | creFfwd :
      UopEffect s .creFfwd (setPos (setI (setH s (addWords s.h s.v)) (s.i + 1#56))
        (if s.i.toNat + 1 < nBlocks s.len.toNat then Phase.padb else Phase.out) 0#6)
  | digOut : UopEffect s .digOut (setPos (setDone (setDigest s s.h) true) Phase.idle 0#6)

/-- START completes by doing nothing while busy, and by beginning a run inside the domain. -/
theorem hostEffect_of_execStart {s u : State} (h : execStart s = .next u) : HostEffect s .start u := by
  unfold execStart at h
  split at h
  · cases h
    exact .answer _ _
  · rename_i hb
    split at h
    · cases h
    · split at h
      · cases h
      · cases h
        exact .start (by simpa [busy] using hb) ⟨by omega, by omega⟩

/-- A write of LEN is dropped while busy and takes effect while idle. -/
theorem writeLen_cases (s : State) (x : BitVec 64) :
    writeLen s x = s ∨ s.phase = Phase.idle ∧ writeLen s x = setLen s x := by
  unfold writeLen
  split
  · exact .inl rfl
  · rename_i hb
    exact .inr ⟨by simpa [busy] using hb, rfl⟩

/-- Every host transaction that completes has one of the effects of `HostEffect`. -/
theorem hostEffect_of_exec {i : Instr} {s u : State} (hf : i.format = .ht) (h : exec i s = .next u) :
    HostEffect s i u := by
  cases i <;> simp only [Instr.format, reduceCtorEq] at hf
  case start => exact hostEffect_of_execStart h
  case wrlenLo v =>
    cases h
    rcases writeLen_cases s (lenWithLo s.len v) with he | ⟨hidle, he⟩
    · rw [he]
      exact .answer _ _
    · rw [he]
      exact .wrlenLo v hidle
  case wrlenHi v =>
    cases h
    rcases writeLen_cases s (lenWithHi s.len v) with he | ⟨hidle, he⟩
    · rw [he]
      exact .answer _ _
    · rw [he]
      exact .wrlenHi v hidle
  all_goals
    cases h
    exact .answer _ _

/-- PAD.BYTE completes only inside its domain, and stores the byte of the padded message at its position. -/
theorem uopEffect_of_execPadByte {j : BitVec 6} {s u : State} (h : execPadByte j s = .next u) :
    UopEffect s (.padByte j) u := by
  unfold execPadByte at h
  split at h
  · rename_i hdom
    rw [padbyte_next hdom] at h
    cases h
    exact .padByte j hdom
  · cases h

theorem uopEffect_of_execMsxLoad {t : BitVec 4} {s u : State} (h : execMsxLoad t s = .next u) :
    UopEffect s (.msxLoad t) u := by
  have heff := UopEffect.msxLoad (s := s) t
  unfold execMsxLoad at h
  split at h <;> rename_i ht <;> cases h <;> simpa only [ht, if_true, if_false] using heff

theorem uopEffect_of_execMsxExp {t : BitVec 6} {s u : State} (h : execMsxExp t s = .next u) :
    UopEffect s (.msxExp t) u := by
  unfold execMsxExp at h
  split at h
  · cases h
  · cases h
    exact .msxExp t (by omega)

theorem uopEffect_of_execCreFfwd {s u : State} (h : execCreFfwd s = .next u) : UopEffect s .creFfwd u := by
  have heff := UopEffect.creFfwd (s := s)
  unfold execCreFfwd at h
  split at h <;> rename_i hi <;> cases h <;> simpa only [hi, if_true, if_false] using heff

/-- Every micro-operation that completes has its effect of `UopEffect`. -/
theorem uopEffect_of_exec {i : Instr} {s u : State} (hf : i.format = .uop) (h : exec i s = .next u) :
    UopEffect s i u := by
  cases i <;> simp only [Instr.format, reduceCtorEq] at hf
  case idle => cases h; exact .idle
  case creInit => cases h; exact .creInit
  case padByte j => exact uopEffect_of_execPadByte h
  case msxLoad t => exact uopEffect_of_execMsxLoad h
  case msxExp t => exact uopEffect_of_execMsxExp h
  case creSeed => cases h; exact .creSeed
  case creRound r => cases h; exact .creRound r
  case creFfwd => exact uopEffect_of_execCreFfwd h
  case digOut => cases h; exact .digOut

/-- The operation of a position is a micro-operation. -/
theorem decodeUop_format {p : BitVec 4} {t : BitVec 6} {i : Instr} (h : decodeUop (p ++ t) = .ok i) :
    i.format = .uop := by
  rcases decodeUop_cases h with ⟨-, -, rfl⟩ | ⟨-, -, rfl⟩ | ⟨-, rfl⟩ | ⟨-, -, rfl⟩ | ⟨-, -, rfl⟩ | ⟨-, -, rfl⟩ |
    ⟨-, rfl⟩ | ⟨-, -, rfl⟩ | ⟨-, -, rfl⟩ <;> rfl

/-- No micro-operation changes LEN, the environment or what reads returned. -/
theorem UopEffect.frame {i : Instr} {s u : State} (h : UopEffect s i u) :
    u.len = s.len ∧ u.msg = s.msg ∧ u.msgBytes = s.msgBytes ∧ u.turns = s.turns ∧ u.reads = s.reads ∧
      u.resets = s.resets := by
  cases h <;> simp [advance_eq]

/-! ## Which operation writes which register -/

/-- An entry that differs after a write of entry `t` is entry `t`. -/
theorem eq_of_getElem_set_ne {α : Type} {n t k : Nat} {x : Vector α n} {a : α} (ht : t < n) (hk : k < n)
    (h : (x.set t a)[k] ≠ x[k]) : k = t := by
  by_contra hne
  exact h (Vector.getElem_set_ne ht hk (Ne.symm hne))

@[simp] theorem loadIdx_toNat (t : BitVec 4) : (loadIdx t).toNat = t.toNat :=
  BitVec.toNat_setWidth_of_le (by decide)

/-- Settles O46, along the effects of the operations; the three writes of one entry name the entry they write. -/
theorem registerWriters : Obligations.RegisterWriters := by
  intro i s u h
  cases hf : i.format with
  | ht =>
    cases hostEffect_of_exec hf h with
    | answer => simp
    | wrlenLo v hidle => simp [hidle]
    | wrlenHi v hidle => simp [hidle]
    | start => simp
  | uop =>
    cases uopEffect_of_exec hf h with
    | padByte j =>
      simp only [advance_eq]
      simpa using fun k hk => eq_of_getElem_set_ne j.isLt hk
    | msxLoad t =>
      simpa using fun k hk => eq_of_getElem_set_ne (t := t.toNat) (by omega) hk
    | msxExp t =>
      simp only [advance_eq]
      simpa using fun k hk => eq_of_getElem_set_ne t.isLt hk
    | _ => simp [advance_eq]

/-! ## The control invariant while idle (R24 to R26, R38) -/

/-- An idle unit meets the control invariant when its index is 0, its memory canonical and its block counter in range:
the other clauses speak of a run. -/
theorem controlInv_of_idle {s : State} (hp : s.phase = Phase.idle) (ht : s.t = 0#6) (hwf : s.msg.wf = true)
    (hmem : ∀ c ∈ s.msg, c.1 < s.msgBytes.toNat) (hi : s.i.toNat ≤ 2 ^ 55 + 1) : ControlInv s := by
  refine ⟨?_, hwf, hmem, ?_, ?_, ?_, ?_, hi, ?_⟩ <;> simp [hp, ht, posLegal, busy, inBlock]

/-- The only legal position of the phase IDLE is (IDLE, 0). -/
theorem t_eq_zero_of_idle {s : State} (hs : ControlInv s) (hp : s.phase = Phase.idle) : s.t = 0#6 := by
  simpa [posLegal, hp] using hs.1

theorem controlInv_reset : ControlInv State.reset :=
  controlInv_of_idle rfl rfl rfl (fun _ hc => nomatch hc) (Nat.zero_le _)

theorem controlInv_resetEvent {s : State} (hs : ControlInv s) : ControlInv (resetEvent s) := by
  obtain ⟨-, hwf, hmem, -⟩ := hs
  exact controlInv_of_idle rfl rfl hwf hmem (Nat.zero_le _)

/-- While idle LEN may hold any value. -/
theorem controlInv_setLen {s : State} (hs : ControlInv s) (hp : s.phase = Phase.idle) (l : BitVec 64) :
    ControlInv (setLen s l) := by
  have ht := t_eq_zero_of_idle hs hp
  obtain ⟨-, hwf, hmem, -, -, -, -, hi, -⟩ := hs
  exact controlInv_of_idle hp ht hwf hmem hi

/-- DIG.OUT ends the run: DONE rises as BUSY falls. -/
theorem controlInv_digOut {s : State} (hs : ControlInv s) :
    ControlInv (setPos (setDone (setDigest s s.h) true) Phase.idle 0#6) := by
  obtain ⟨-, hwf, hmem, -, -, -, -, hi, -⟩ := hs
  exact controlInv_of_idle rfl rfl hwf hmem hi

/-! ## The two moves of the host that touch more than its own record -/

/-- START inside the domain begins a run at block 0 with DONE cleared. -/
theorem controlInv_start {s : State} (hs : ControlInv s) (hdom : LenInDomain s) :
    ControlInv { s with done := false, i := 0#56, phase := Phase.init, t := 0#6 } := by
  obtain ⟨-, hwf, hmem, -⟩ := hs
  exact ⟨rfl, hwf, hmem, fun _ => hdom, fun _ => rfl, fun h => by simp [inBlock] at h, fun h => by simp at h,
    Nat.zero_le _, fun _ => rfl⟩

/-- A host write below MSG_BYTES keeps the memory canonical and inside MSG_BYTES. -/
theorem controlInv_msgWrite {s : State} {a : Nat} (hs : ControlInv s) (ha : a < s.msgBytes.toNat) (b : Byte) :
    ControlInv { s with msg := s.msg.write a b } := by
  obtain ⟨hpos, hwf, hmem, hrun⟩ := hs
  refine ⟨hpos, Memory.write_wf hwf, fun c hc => ?_, hrun⟩
  rcases Memory.mem_write hc with hc | rfl
  · exact hmem c hc
  · exact ha

/-! ## The control invariant of a run that goes on -/

/-- `u` is at the same run as `s`: same message, same LEN, and DONE as it was. -/
structure SameRun (s u : State) : Prop where
  len : u.len = s.len
  msg : u.msg = s.msg
  msgBytes : u.msgBytes = s.msgBytes
  done : u.done = s.done

/-- Inside the domain NB is at most 2^55 + 1 (R24, R120). -/
theorem nBlocks_le_of_domain {s : State} (h : LenInDomain s) : nBlocks s.len.toNat ≤ 2 ^ 55 + 1 := by
  have := h.1
  unfold nBlocks
  omega

/-- A run that goes on to a legal position keeps the control invariant when its block counter is below NB in the
per-block loop and NB after it. -/
theorem ControlInv.go_on {s u : State} (hs : ControlInv s) (hb : s.phase ≠ Phase.idle) (hrun : SameRun s u)
    (hpos : posLegal u.phase u.t = true)
    (hi : inBlock u.phase = true ∧ u.i.toNat < nBlocks s.len.toNat ∨
      u.phase = Phase.out ∧ u.i.toNat = nBlocks s.len.toNat) : ControlInv u := by
  obtain ⟨-, hwf, hmem, hdom, -, -, -, -, hdone⟩ := hs
  obtain ⟨hlen, hmsg, hbytes, hd⟩ := hrun
  have hbusy := (busy_iff s).mpr hb
  have hle := nBlocks_le_of_domain (hdom hbusy)
  refine ⟨hpos, hmsg ▸ hwf, ?_, ?_, ?_, ?_, ?_, by omega, fun _ => hd ▸ hdone hbusy⟩
  · rwa [hmsg, hbytes]
  · simpa only [LenInDomain, hlen, hbytes] using fun _ => hdom hbusy
  · intro hp
    simp [hp, inBlock] at hi
  · intro hp
    rw [hlen]
    rcases hi with ⟨-, hi⟩ | ⟨ho, -⟩
    · exact hi
    · simp [ho, inBlock] at hp
  · intro hp
    rw [hlen]
    rcases hi with ⟨hin, -⟩ | ⟨-, hi⟩
    · simp [hp, inBlock] at hin
    · exact hi

/-- A step inside a block, from a position of the per-block loop to another with the block counter as it was. -/
theorem ControlInv.stay_inBlock {s u : State} (hs : ControlInv s) (hin : inBlock s.phase = true) (hrun : SameRun s u)
    (hi : u.i = s.i) (hpos : posLegal u.phase u.t = true) (hin' : inBlock u.phase = true) : ControlInv u := by
  have hb : s.phase ≠ Phase.idle := by
    intro hp
    simp [hp, inBlock] at hin
  refine hs.go_on hb hrun hpos (.inl ⟨hin', ?_⟩)
  rw [hi]
  obtain ⟨-, -, -, -, -, hlt, -⟩ := hs
  exact hlt hin

/-- The same where the step counts the index up to 63 and then goes to the next phase. -/
theorem ControlInv.advance_inBlock {s s1 : State} {p q : BitVec 4} {k0 : BitVec 6} (hs : ControlInv s)
    (hp : s.phase = p) (hin : inBlock p = true) (hrun : SameRun s s1) (hi : s1.i = s.i)
    (hnext : s.t.toNat < 63 → posLegal p (s.t + 1#6) = true) (hq : inBlock q = true) (hlast : posLegal q k0 = true) :
    ControlInv (advance s1 p s.t q k0) := by
  obtain ⟨hlen, hmsg, hbytes, hd⟩ := hrun
  by_cases ht : s.t.toNat < 63
  · rw [advance_lt ht]
    exact hs.stay_inBlock (hp ▸ hin) ⟨hlen, hmsg, hbytes, hd⟩ hi (hnext ht) hin
  · rw [advance_last ht]
    exact hs.stay_inBlock (hp ▸ hin) ⟨hlen, hmsg, hbytes, hd⟩ hi hlast hq

/-- Under the control invariant I + 1 does not leave its 56 bits (R24). -/
theorem toNat_i_succ {s : State} (hs : ControlInv s) : (s.i + 1#56).toNat = s.i.toNat + 1 := by
  obtain ⟨-, -, -, -, -, -, -, hi, -⟩ := hs
  exact BitVec.toNat_add_of_lt (by simp only [BitVec.toNat_ofNat]; omega)

/-- Before index 63 the index T + 1 does not leave its 6 bits. -/
theorem toNat_t_succ {t : BitVec 6} (h : t.toNat < 63) : (t + 1#6).toNat = t.toNat + 1 :=
  BitVec.toNat_add_of_lt (by simp only [BitVec.toNat_ofNat]; omega)

/-- The index T of LOAD, cut to the operand of MSX.LOAD, is the same number. -/
theorem toNat_extract_load {t : BitVec 6} (ht : t.toNat < 16) : (t.extractLsb' 0 4).toNat = t.toNat := by
  rw [BitVec.extractLsb'_toNat, Nat.shiftRight_zero, Nat.mod_eq_of_lt ht]

theorem loadIdx_extract {t : BitVec 6} (ht : t.toNat < 16) : loadIdx (t.extractLsb' 0 4) = t :=
  BitVec.eq_of_toNat_eq (by rw [loadIdx_toNat, toNat_extract_load ht])

/-- The micro-operation a position names keeps the control invariant. -/
theorem ControlInv.of_uop {s u : State} {i : Instr} (hs : ControlInv s) (hd : decodeUop (s.phase ++ s.t) = .ok i)
    (h : UopEffect s i u) : ControlInv u := by
  rcases decodeUop_cases hd with ⟨-, -, rfl⟩ | ⟨hp, -, rfl⟩ | ⟨hp, rfl⟩ | ⟨hp, ht, rfl⟩ | ⟨hp, ht, rfl⟩ |
    ⟨hp, -, rfl⟩ | ⟨hp, rfl⟩ | ⟨hp, -, rfl⟩ | ⟨-, -, rfl⟩ <;> cases h
  case creInit =>
    refine hs.go_on (by simp [hp]) ⟨rfl, rfl, rfl, rfl⟩ rfl (.inl ⟨rfl, ?_⟩)
    obtain ⟨-, -, -, -, hinit, -⟩ := hs
    simp [hinit hp, nBlocks]
  case padByte => exact hs.advance_inBlock hp rfl ⟨rfl, rfl, rfl, rfl⟩ rfl (fun _ => rfl) rfl rfl
  case msxLoad =>
    rw [toNat_extract_load ht, loadIdx_extract ht]
    refine hs.stay_inBlock (by simp [hp, inBlock]) ⟨rfl, rfl, rfl, rfl⟩ rfl ?_ ?_
    · by_cases hl : s.t.toNat < 15
      · simpa [hl, posLegal, toNat_t_succ (by omega : s.t.toNat < 63)] using by omega
      · simp [hl, posLegal]
    · by_cases hl : s.t.toNat < 15 <;> simp [hl, inBlock]
  case msxExp =>
    refine hs.advance_inBlock hp rfl ⟨rfl, rfl, rfl, rfl⟩ rfl (fun hl => ?_) rfl rfl
    simpa [posLegal, toNat_t_succ hl] using by omega
  case creSeed => exact hs.stay_inBlock (by simp [hp, inBlock]) ⟨rfl, rfl, rfl, rfl⟩ rfl rfl rfl
  case creRound => exact hs.advance_inBlock hp rfl ⟨rfl, rfl, rfl, rfl⟩ rfl (fun _ => rfl) rfl rfl
  case creFfwd =>
    have hsucc := toNat_i_succ hs
    refine hs.go_on (by simp [hp]) ⟨rfl, rfl, rfl, rfl⟩ ?_ ?_
    · split <;> rfl
    · obtain ⟨-, -, -, -, -, hlt, -⟩ := hs
      have := hlt (by simp [hp, inBlock])
      by_cases hl : s.i.toNat + 1 < nBlocks s.len.toNat
      · exact .inl ⟨by simp [hl, inBlock], hsucc.trans_lt hl⟩
      · exact .inr ⟨by simp [hl], hsucc.trans (by omega)⟩
  case digOut => exact controlInv_digOut hs
  case idle => exact hs

/-- Settles O56, along the four kinds of step. -/
theorem stepKeepsInvariant : Obligations.StepKeepsInvariant := by
  intro s u hs h
  rcases step_next h with ⟨i, rest, -, hd, h⟩ | ⟨w, rest, -, h⟩ | ⟨a, b, rest, -, h⟩ | ⟨rest, -, rfl⟩
  · exact ControlInv.of_uop (s := { s with turns := rest }) hs hd (uopEffect_of_exec (decodeUop_format hd) h)
  · rcases host_next (decodeHt_format w) h with ⟨x, rfl⟩ | ⟨hp, l, rfl⟩ | ⟨-, hdom, rfl⟩
    · exact hs
    · exact controlInv_setLen (s := { s with turns := rest }) hs hp l
    · exact controlInv_start (s := { s with turns := rest }) hs hdom
  · obtain ⟨ha, -, rfl⟩ := hostWriteMsg_next h
    exact controlInv_msgWrite (s := { s with turns := rest }) hs ha b
  · exact controlInv_resetEvent (s := { s with turns := rest }) hs

/-! ## STATUS -/

/-- STATUS as a number, from the two flags (R29). -/
theorem statusWord_eq (s : State) :
    statusWord s = BitVec.ofNat 32 ((busy s).toNat + 2 * s.done.toNat) := by
  unfold statusWord
  cases busy s <;> cases s.done <;> rfl

/-- Settles O16: while busy DONE is 0 by the control invariant, so one flag at most stands in STATUS. -/
theorem statusIsNeverBusyAndDone : Obligations.StatusIsNeverBusyAndDone := by
  intro s hs
  obtain ⟨-, -, -, -, -, -, -, -, hdone⟩ := hs
  suffices hx : statusWord s = if s.phase ≠ 0x0#4 then 1#32 else if s.done then 2#32 else 0#32 by
    simp only [exec, execRdstat, returnRead, hx]
  rw [statusWord_eq]
  by_cases hp : s.phase = 0x0#4
  · rw [(not_busy_iff s).mpr hp, if_neg (not_not.mpr hp)]
    cases s.done <;> rfl
  · have hb := (busy_iff s).mpr hp
    rw [hb, hdone hb, if_pos hp]
    rfl

/-! ## The reference functions, one step on -/

/-- A word of the schedule is a word of the block, or the recurrence on earlier words (R142). -/
theorem refSchedule_eq (b : Vector Byte 64) (t : Nat) :
    refSchedule b t =
      if t < 16 then blockWord b (BitVec.ofNat 4 t)
      else expandWord (refSchedule b (t - 16)) (refSchedule b (t - 15)) (refSchedule b (t - 7))
        (refSchedule b (t - 2)) := by
  rw [refSchedule, refScheduleList, List.getD_append_right _ _ _ _ (refScheduleList_length b t).le,
    refScheduleList_length, Nat.sub_self, List.getD_cons_zero]
  split
  · rfl
  · rw [refScheduleList_getD (by omega), refScheduleList_getD (by omega), refScheduleList_getD (by omega),
      refScheduleList_getD (by omega)]

/-- The first 16 words are the block's (R140). -/
theorem refSchedule_load (b : Vector Byte 64) (t : BitVec 4) : refSchedule b t.toNat = blockWord b t := by
  rw [refSchedule_eq, if_pos t.isLt, BitVec.ofNat_toNat, BitVec.setWidth_eq]

/-- One more round of the reference is the machine's round with the ROM word and the schedule word (R162, R164). -/
theorem refRounds_succ (h : Words8) (b : Vector Byte 64) (r : BitVec 6) :
    refRounds h b (r.toNat + 1) = roundFn (refRounds h b r.toNat) (entry kRom r) (refSchedule b r.toNat) := by
  simp [refRounds, entry, Vector.getElem?_eq_getElem r.isLt]

/-! ## Files filled entry by entry -/

/-- The entries of `x` below `t` are those of `f`. -/
def AgreesBelow {α : Type} {n : Nat} (x : Vector α n) (f : Nat → α) (t : Nat) : Prop :=
  ∀ (k : Nat) (hk : k < n), k < t → x[k] = f k

theorem AgreesBelow.zero {α : Type} {n : Nat} (x : Vector α n) (f : Nat → α) : AgreesBelow x f 0 :=
  fun k _ hk => absurd hk (Nat.not_lt_zero k)

/-- Filling in entry `t` makes the files agree one entry further. -/
theorem AgreesBelow.set {α : Type} {n t : Nat} {x : Vector α n} {f : Nat → α} {a : α} (h : AgreesBelow x f t)
    (ht : t < n) (ha : a = f t) : AgreesBelow (x.set t a ht) f (t + 1) := by
  intro k hk hkt
  by_cases hkeq : t = k
  · subst hkeq
    rw [Vector.getElem_set_self, ha]
  · rw [Vector.getElem_set_ne _ _ hkeq]
    exact h k hk (by omega)

/-- Byte k of the block the run is at. -/
abbrev curByte (s : State) (k : Nat) : Byte := refPadded s.msg s.len.toNat (64 * s.i.toNat + k)

/-- A buffer that agrees with the block's bytes at all 64 places is the block. -/
theorem blk_eq_curBlock {s : State} {x : Vector Byte 64} (h : AgreesBelow x (curByte s) 64) : x = curBlock s := by
  ext k hk
  rw [h k hk hk, curBlock, refBlock_getElem]

/-! ## What is left to show at each phase -/

/-- Outside a run, and before CRE.INIT, the data invariant asks nothing of the datapath. -/
theorem runInv_of_no_data {s : State} (hc : ControlInv s) (hp : s.phase = Phase.idle ∨ s.phase = Phase.init) :
    RunInv s := by
  refine ⟨hc, ?_, ?_, ?_, ?_, ?_, ?_, ?_⟩ <;> rcases hp with hp | hp <;> simp [hp, inBlock]

theorem runInv_of_padb {s : State} (hc : ControlInv s) (hp : s.phase = Phase.padb) (hh : s.h = curChain s)
    (hblk : AgreesBelow s.blk (curByte s) s.t.toNat) : RunInv s := by
  refine ⟨hc, fun _ => hh, fun _ k hk hkt => ?_, ?_, ?_, ?_, ?_, ?_⟩
  · rw [hblk k hk hkt, curBlock, refBlock_getElem]
  all_goals simp [hp]

theorem runInv_of_load {s : State} (hc : ControlInv s) (hp : s.phase = Phase.load) (hh : s.h = curChain s)
    (hblk : s.blk = curBlock s) (hw : AgreesBelow s.w (refSchedule (curBlock s)) s.t.toNat) : RunInv s := by
  refine ⟨hc, fun _ => hh, ?_, fun _ => hblk, fun _ => hw, ?_, ?_, ?_⟩ <;> simp [hp]

theorem runInv_of_exp {s : State} (hc : ControlInv s) (hp : s.phase = Phase.exp) (hh : s.h = curChain s)
    (hw : AgreesBelow s.w (refSchedule (curBlock s)) s.t.toNat) : RunInv s := by
  refine ⟨hc, fun _ => hh, ?_, ?_, fun _ => hw, ?_, ?_, ?_⟩ <;> simp [hp]

theorem runInv_of_seed {s : State} (hc : ControlInv s) (hp : s.phase = Phase.seed) (hh : s.h = curChain s)
    (hw : AgreesBelow s.w (refSchedule (curBlock s)) 64) : RunInv s := by
  refine ⟨hc, fun _ => hh, ?_, ?_, ?_, fun _ k hk => hw k hk hk, ?_, ?_⟩ <;> simp [hp]

theorem runInv_of_round {s : State} (hc : ControlInv s) (hp : s.phase = Phase.round) (hh : s.h = curChain s)
    (hw : ∀ (k : Nat) (hk : k < 64), s.w[k] = refSchedule (curBlock s) k)
    (hv : s.v = refRounds (curChain s) (curBlock s) s.t.toNat) : RunInv s := by
  refine ⟨hc, fun _ => hh, ?_, ?_, ?_, fun _ => hw, fun _ => hv, ?_⟩ <;> simp [hp]

theorem runInv_of_ffwd {s : State} (hc : ControlInv s) (hp : s.phase = Phase.ffwd) (hh : s.h = curChain s)
    (hv : s.v = refRounds (curChain s) (curBlock s) 64) : RunInv s := by
  refine ⟨hc, fun _ => hh, ?_, ?_, ?_, ?_, ?_, fun _ => hv⟩ <;> simp [hp]

theorem runInv_of_out {s : State} (hc : ControlInv s) (hp : s.phase = Phase.out) (hh : s.h = curChain s) :
    RunInv s := by
  refine ⟨hc, fun _ => hh, ?_, ?_, ?_, ?_, ?_, ?_⟩ <;> simp [hp]

/-! ## The micro-operations of a run

Each lemma takes the control invariant of the state the operation leaves, which `ControlInv.of_uop` gives. -/

/-- CRE.INIT: H_0 is the chaining value of block 0 (R160, R165). -/
theorem runInv_creInit {s : State} (hs : RunInv s) (hp : s.phase = Phase.init)
    (hu : ControlInv (setPos (setH s ivRom) Phase.padb 0#6)) : RunInv (setPos (setH s ivRom) Phase.padb 0#6) := by
  obtain ⟨⟨-, -, -, -, hinit, -⟩, -⟩ := hs
  refine runInv_of_padb hu rfl ?_ (AgreesBelow.zero _ _)
  simp [curChain, hinit hp, refChain]

/-- PAD.BYTE fills in one byte of the block, and the last one completes it (R122, R203). -/
theorem runInv_padByte {s u : State} (hs : RunInv s) (hp : s.phase = Phase.padb) (hu : ControlInv u)
    (h : u = advance (setBlk s s.t (refPadded s.msg s.len.toNat (padPos s.i s.t))) Phase.padb s.t Phase.load 0#6) :
    RunInv u := by
  obtain ⟨-, hh, hblk, -⟩ := hs
  have hchain : s.h = curChain s := hh (.inl (by simp [hp, inBlock]))
  have hbelow : AgreesBelow s.blk (curByte s) s.t.toNat := by
    intro k hk hkt
    rw [hblk hp k hk hkt, curBlock, refBlock_getElem]
  have hset := hbelow.set s.t.isLt (a := refPadded s.msg s.len.toNat (padPos s.i s.t)) rfl
  by_cases ht : s.t.toNat < 63
  · rw [advance_lt ht] at h
    subst h
    refine runInv_of_padb hu rfl hchain ?_
    rw [setPos_t, toNat_t_succ ht]
    exact hset
  · rw [advance_last ht] at h
    subst h
    have hlast : s.t.toNat + 1 = 64 := by omega
    refine runInv_of_load hu rfl hchain (blk_eq_curBlock (s := s) ?_) (AgreesBelow.zero _ _)
    rw [hlast] at hset
    exact hset

/-- MSX.LOAD forms the next word of the schedule from the block (R140, R142). -/
theorem runInv_msxLoad {s u : State} {t : BitVec 4} (hs : RunInv s) (hp : s.phase = Phase.load)
    (ht : loadIdx t = s.t) (hu : ControlInv u)
    (h : u = setPos (setW s (loadIdx t) (blockWord s.blk t)) (if t.toNat < 15 then Phase.load else Phase.exp)
      (if t.toNat < 15 then loadIdx t + 1#6 else 16#6)) : RunInv u := by
  obtain ⟨-, hh, -, hblk, hw, -⟩ := hs
  have hchain : s.h = curChain s := hh (.inl (by simp [hp, inBlock]))
  have hidx : t.toNat = s.t.toNat := by rw [← loadIdx_toNat, ht]
  have hset : AgreesBelow (s.w.set s.t.toNat (blockWord s.blk t) s.t.isLt) (refSchedule (curBlock s))
      (s.t.toNat + 1) := by
    refine AgreesBelow.set (hw (.inl hp)) s.t.isLt ?_
    rw [hblk hp, ← hidx, refSchedule_load]
  rw [ht] at h
  by_cases hl : t.toNat < 15
  · simp only [hl, if_true] at h
    subst h
    refine runInv_of_load hu rfl hchain (hblk hp) ?_
    rw [setPos_t, toNat_t_succ (by omega)]
    exact hset
  · simp only [hl, if_false] at h
    subst h
    have hlast : s.t.toNat + 1 = 16 := by omega
    rw [hlast] at hset
    exact runInv_of_exp hu rfl hchain hset

/-- MSX.EXP computes the next word of the schedule from four that are there (R141, R142). -/
theorem runInv_msxExp {s u : State} (hs : RunInv s) (hp : s.phase = Phase.exp) (ht : 16 ≤ s.t.toNat)
    (hu : ControlInv u)
    (h : u = advance (setW s s.t (expandWord (entry s.w (s.t - 16#6)) (entry s.w (s.t - 15#6))
      (entry s.w (s.t - 7#6)) (entry s.w (s.t - 2#6)))) Phase.exp s.t Phase.seed 0#6) : RunInv u := by
  obtain ⟨-, hh, -, -, hw, -⟩ := hs
  have hchain : s.h = curChain s := hh (.inl (by simp [hp, inBlock]))
  have hback : ∀ d : BitVec 6, 0 < d.toNat → d.toNat ≤ 16 →
      entry s.w (s.t - d) = refSchedule (curBlock s) (s.t.toNat - d.toNat) := by
    intro d hd0 hd
    have hsub : (s.t - d).toNat = s.t.toNat - d.toNat := BitVec.toNat_sub_of_le (BitVec.le_def.mpr (by omega))
    rw [entry, hw (.inr hp) _ _ (by omega), hsub]
  have hset : AgreesBelow (s.w.set s.t.toNat (expandWord (entry s.w (s.t - 16#6)) (entry s.w (s.t - 15#6))
      (entry s.w (s.t - 7#6)) (entry s.w (s.t - 2#6))) s.t.isLt) (refSchedule (curBlock s)) (s.t.toNat + 1) := by
    refine AgreesBelow.set (hw (.inr hp)) s.t.isLt ?_
    rw [refSchedule_eq, if_neg (by omega), hback 16#6 (by decide) (by decide), hback 15#6 (by decide) (by decide),
      hback 7#6 (by decide) (by decide), hback 2#6 (by decide) (by decide)]
    rfl
  by_cases hl : s.t.toNat < 63
  · rw [advance_lt hl] at h
    subst h
    refine runInv_of_exp hu rfl hchain ?_
    rw [setPos_t, toNat_t_succ hl]
    exact hset
  · rw [advance_last hl] at h
    subst h
    have hlast : s.t.toNat + 1 = 64 := by omega
    rw [hlast] at hset
    exact runInv_of_seed hu rfl hchain hset

/-- CRE.SEED: before the first round the working registers are the chaining value (R161, R164). -/
theorem runInv_creSeed {s : State} (hs : RunInv s) (hp : s.phase = Phase.seed)
    (hu : ControlInv (setPos (setV s s.h) Phase.round 0#6)) : RunInv (setPos (setV s s.h) Phase.round 0#6) := by
  obtain ⟨-, hh, -, -, -, hw, -⟩ := hs
  have hchain : s.h = curChain s := hh (.inl (by simp [hp, inBlock]))
  exact runInv_of_round hu rfl hchain (hw (.inl hp)) hchain

/-- CRE.ROUND makes one more round of the block's compression (R162, R164). -/
theorem runInv_creRound {s u : State} (hs : RunInv s) (hp : s.phase = Phase.round) (hu : ControlInv u)
    (h : u = advance (setV s (roundFn s.v (entry kRom s.t) (entry s.w s.t))) Phase.round s.t Phase.ffwd 0#6) :
    RunInv u := by
  obtain ⟨-, hh, -, -, -, hw, hv, -⟩ := hs
  have hchain : s.h = curChain s := hh (.inl (by simp [hp, inBlock]))
  have hnext : roundFn s.v (entry kRom s.t) (entry s.w s.t) =
      refRounds (curChain s) (curBlock s) (s.t.toNat + 1) := by
    rw [refRounds_succ, ← hv hp, ← hw (.inr hp) s.t.toNat s.t.isLt, entry, entry]
  by_cases hl : s.t.toNat < 63
  · rw [advance_lt hl] at h
    subst h
    refine runInv_of_round hu rfl hchain (hw (.inr hp)) ?_
    rw [setPos_t, toNat_t_succ hl]
    exact hnext
  · rw [advance_last hl] at h
    subst h
    have hlast : s.t.toNat + 1 = 64 := by omega
    rw [hlast] at hnext
    exact runInv_of_ffwd hu rfl hchain hnext

/-- CRE.FFWD: the sum is the chaining value of the next block (R163, R165). -/
theorem runInv_creFfwd {s u : State} (hs : RunInv s) (hp : s.phase = Phase.ffwd) (hu : ControlInv u)
    (h : u = setPos (setI (setH s (addWords s.h s.v)) (s.i + 1#56))
      (if s.i.toNat + 1 < nBlocks s.len.toNat then Phase.padb else Phase.out) 0#6) : RunInv u := by
  obtain ⟨hc, hh, -, -, -, -, -, hv⟩ := hs
  have hnext : addWords s.h s.v = refChain s.msg s.len.toNat (s.i + 1#56).toNat := by
    rw [toNat_i_succ hc, hv hp, hh (.inl (by simp [hp, inBlock]))]
    rfl
  by_cases hl : s.i.toNat + 1 < nBlocks s.len.toNat
  · simp only [hl, if_true] at h
    subst h
    exact runInv_of_padb hu rfl hnext (AgreesBelow.zero _ _)
  · simp only [hl, if_false] at h
    subst h
    exact runInv_of_out hu rfl hnext

/-- The micro-operation a position names keeps the data invariant. -/
theorem RunInv.of_uop {s u : State} {i : Instr} (hs : RunInv s) (hd : decodeUop (s.phase ++ s.t) = .ok i)
    (h : UopEffect s i u) : RunInv u := by
  have hu : ControlInv u := hs.1.of_uop hd h
  rcases decodeUop_cases hd with ⟨-, -, rfl⟩ | ⟨hp, -, rfl⟩ | ⟨hp, rfl⟩ | ⟨hp, ht, rfl⟩ | ⟨hp, ht, rfl⟩ |
    ⟨hp, -, rfl⟩ | ⟨hp, rfl⟩ | ⟨hp, -, rfl⟩ | ⟨-, -, rfl⟩ <;> cases h
  case idle => exact hs
  case creInit => exact runInv_creInit hs hp hu
  case padByte => exact runInv_padByte hs hp hu rfl
  case msxLoad => exact runInv_msxLoad hs hp (loadIdx_extract ht) hu rfl
  case msxExp => exact runInv_msxExp hs hp ht hu rfl
  case creSeed => exact runInv_creSeed hs hp hu
  case creRound => exact runInv_creRound hs hp hu rfl
  case creFfwd => exact runInv_creFfwd hs hp hu rfl
  case digOut => exact runInv_of_no_data hu (.inl rfl)

/-! ## The other moves -/

/-- The data invariant speaks of the message bytes below LEN only. -/
theorem RunInv.with_msg {s : State} {m : Memory} (hs : RunInv s) (hc : ControlInv { s with msg := m })
    (hm : ∀ a, a < s.len.toNat → m.read a = s.msg.read a) : RunInv { s with msg := m } := by
  have hblock : curBlock { s with msg := m } = curBlock s := refBlock_congr hm
  have hchain : curChain { s with msg := m } = curChain s := refChain_congr hm
  refine ⟨hc, ?_⟩
  rw [hblock, hchain]
  exact hs.2

/-- A host write that completes during a run is above the message; while idle it disturbs no run. -/
theorem RunInv.of_hostWriteMsg {s u : State} {a : BitVec 61} {b : Byte} (hs : RunInv s) (hu : ControlInv u)
    (h : hostWriteMsg s a b = .next u) : RunInv u := by
  obtain ⟨-, hwhere, rfl⟩ := hostWriteMsg_next h
  rcases hwhere with hp | ha
  · exact runInv_of_no_data hu (.inl hp)
  · exact hs.with_msg hu fun c hc => Memory.read_write_other (by omega)

/-- Settles O57, along the four kinds of step. -/
theorem stepKeepsRunData : Obligations.StepKeepsRunData := by
  intro s u hs h
  have hu : ControlInv u := stepKeepsInvariant s u hs.1 h
  rcases step_next h with ⟨i, rest, -, hd, h⟩ | ⟨w, rest, -, h⟩ | ⟨a, b, rest, -, h⟩ | ⟨rest, -, rfl⟩
  · exact RunInv.of_uop (s := { s with turns := rest }) hs hd (uopEffect_of_exec (decodeUop_format hd) h)
  · rcases host_next (decodeHt_format w) h with ⟨x, rfl⟩ | ⟨hp, l, rfl⟩ | ⟨-, -, rfl⟩
    · exact hs
    · exact runInv_of_no_data hu (.inl hp)
    · exact runInv_of_no_data hu (.inr rfl)
  · exact RunInv.of_hostWriteMsg (s := { s with turns := rest }) hs hu h
  · exact runInv_of_no_data hu (.inl rfl)

/-! ## The message, and the state right after reset -/

/-- Settles O52: of the four kinds of step only a host's write changes MSG, at or above LEN during a run; and during a
run only a reset event changes LEN. -/
theorem messageIsFixedDuringRun : Obligations.MessageIsFixedDuringRun := by
  intro s u hp h
  rcases step_next h with ⟨i, rest, -, hd, h⟩ | ⟨w, rest, -, h⟩ | ⟨a, b, rest, -, h⟩ | ⟨rest, hreset, rfl⟩
  · obtain ⟨hlen, hmsg, -⟩ := (uopEffect_of_exec (decodeUop_format hd) h).frame
    exact ⟨fun _ _ => by rw [hmsg], fun _ => hlen⟩
  · rcases host_next (decodeHt_format w) h with ⟨x, rfl⟩ | ⟨hidle, -⟩ | ⟨hidle, -⟩
    · exact ⟨fun _ _ => rfl, fun _ => rfl⟩
    · exact absurd hidle hp
    · exact absurd hidle hp
  · obtain ⟨-, hwhere, rfl⟩ := hostWriteMsg_next h
    have ha : s.len.toNat ≤ a.toNat := hwhere.resolve_left hp
    exact ⟨fun c hc => Memory.read_write_other (by omega), fun _ => rfl⟩
  · exact ⟨fun _ _ => rfl, fun hno => absurd hreset (hno rest)⟩

/-- Settles O55: the state right after reset is idle. -/
theorem resetMeetsInvariants : Obligations.ResetMeetsInvariants :=
  ⟨controlInv_reset, runInv_of_no_data controlInv_reset (.inl rfl)⟩

/-- Settles O54, by evaluating State.reset. -/
theorem resetStateValues : Obligations.ResetStateValues :=
  ⟨rfl, rfl, rfl, rfl, rfl, rfl, rfl, rfl⟩

/-! ## The ROMs (R31, R32) -/

/-- `x` is the first 32 bits of the fractional part of the `e`-th root of `p`, whose integer part is below 8: the root
times 2^32, cut to an integer, has `x` as its low word. -/
def RootFraction (e p : Nat) (x : Word) : Prop :=
  ∃ n, n < 8 ∧ (n * 2 ^ 32 + x.toNat) ^ e ≤ p * 2 ^ (32 * e) ∧ p * 2 ^ (32 * e) < (n * 2 ^ 32 + x.toNat + 1) ^ e

/-- The 64 primes K is made of, the first eight of which IV is made of. -/
def romPrimes : List Nat :=
  [2, 3, 5, 7, 11, 13, 17, 19, 23, 29, 31, 37, 41, 43, 47, 53, 59, 61, 67, 71, 73, 79, 83, 89, 97, 101, 103, 107, 109,
   113, 127, 131, 137, 139, 149, 151, 157, 163, 167, 173, 179, 181, 191, 193, 197, 199, 211, 223, 227, 229, 233, 239,
   241, 251, 257, 263, 269, 271, 277, 281, 283, 293, 307, 311]

theorem ivRom_rootFraction :
    ∀ k (hk : k < 8), RootFraction 2 ((romPrimes.take 8)[k]'hk) ivRom[k] := by
  unfold RootFraction
  decide

theorem kRom_rootFraction :
    ∀ k (hk : k < 64), RootFraction 3 (romPrimes[k]'hk) kRom[k] := by
  unfold RootFraction
  decide

/-- Settles O36, table by table. -/
theorem romWordsArePrimeRoots : Obligations.RomWordsArePrimeRoots := by
  refine ⟨fun k hk p hp => ?_, fun r hr p hp => ?_⟩
  · obtain ⟨_, rfl⟩ := List.getElem?_eq_some_iff.mp hp
    exact ivRom_rootFraction k hk
  · obtain ⟨_, rfl⟩ := List.getElem?_eq_some_iff.mp hp
    exact kRom_rootFraction r hr

end Sys2Proof.Machine
end

section
/-! SUPPORT. Proofs of the memory family (20_memory.md R60 to R62, R69): what reads a byte of MSG, what no operation
writes, and which host writes stop. -/

namespace Sys2Proof.Machine

/-! ## No operation writes the environment -/

/-- No host transaction changes the memory, its size, the pending moves or the count of resets. -/
theorem HostEffect.frame {i : Instr} {s u : State} (h : HostEffect s i u) :
    u.msg = s.msg ∧ u.msgBytes = s.msgBytes ∧ u.turns = s.turns ∧ u.resets = s.resets := by
  cases h <;> simp

/-- Settles O47, from the frames of the two kinds of operation. -/
theorem noOperationWritesMemory : Obligations.NoOperationWritesMemory := by
  intro i s u h
  have hframe : u.msg = s.msg ∧ u.msgBytes = s.msgBytes ∧ u.turns = s.turns ∧ u.resets = s.resets := by
    cases hf : i.format with
    | ht => exact (hostEffect_of_exec hf h).frame
    | uop =>
      obtain ⟨-, hmsg, hbytes, hturns, -, hresets⟩ := (uopEffect_of_exec hf h).frame
      exact ⟨hmsg, hbytes, hturns, hresets⟩
  exact ⟨fun a => by rw [hframe.1], hframe⟩

/-! ## Only PAD.BYTE reads a byte of MSG -/

/-- The state with MSG replaced does what `f` does and has the same MSG put in its place afterwards: `f` neither reads
nor writes the memory. -/
def IgnoresMsg (f : State → Result State) : Prop :=
  ∀ (s : State) (m : Memory), f { s with msg := m } = (f s).andThen fun u => .next { u with msg := m }

@[simp] theorem busy_with_msg (s : State) (m : Memory) : busy { s with msg := m } = busy s := rfl

theorem advance_with_msg (s : State) (m : Memory) (p q : BitVec 4) (k k0 : BitVec 6) :
    advance { s with msg := m } p k q k0 = { advance s p k q k0 with msg := m } := by
  simp only [advance_eq]

theorem writeLen_with_msg (s : State) (m : Memory) (x : BitVec 64) :
    writeLen { s with msg := m } x = { writeLen s x with msg := m } := by
  cases hb : busy s <;> simp [writeLen, setLen, hb]

theorem ignoresMsg_execStart : IgnoresMsg execStart := by
  intro s m
  simp only [execStart, busy_with_msg]
  split_ifs <;> rfl

theorem ignoresMsg_execMsxLoad (t : BitVec 4) : IgnoresMsg (execMsxLoad t) := by
  intro s m
  unfold execMsxLoad
  split_ifs <;> rfl

theorem ignoresMsg_execMsxExp (t : BitVec 6) : IgnoresMsg (execMsxExp t) := by
  intro s m
  unfold execMsxExp
  split_ifs
  · rfl
  · exact congrArg Host.Outcome.next (advance_with_msg (setW s t _) m _ _ _ _)

theorem ignoresMsg_execCreFfwd : IgnoresMsg execCreFfwd := by
  intro s m
  simp only [execCreFfwd]
  split_ifs <;> rfl

/-- Every operation but PAD.BYTE ignores the memory (R61, R68). -/
theorem ignoresMsg_exec {i : Instr} (hi : ∀ j, i ≠ .padByte j) : IgnoresMsg (exec i) := by
  cases i with
  | padByte j => exact absurd rfl (hi j)
  | start => exact ignoresMsg_execStart
  | wrlenLo v => exact fun s m => congrArg Host.Outcome.next (writeLen_with_msg s m _)
  | wrlenHi v => exact fun s m => congrArg Host.Outcome.next (writeLen_with_msg s m _)
  | msxLoad t => exact ignoresMsg_execMsxLoad t
  | msxExp t => exact ignoresMsg_execMsxExp t
  | creRound r => exact fun s m => congrArg Host.Outcome.next (advance_with_msg (setV s _) m _ _ _ _)
  | creFfwd => exact ignoresMsg_execCreFfwd
  | _ => exact fun _ _ => rfl

/-! ## PAD.BYTE reads below LEN only -/

/-- MemRead asks the memory for the byte at its address only. -/
theorem memRead_with_msg {s : State} {m : Memory} {a : Nat} (h : m.read a = s.msg.read a) :
    memRead { s with msg := m } a = memRead s a := by
  simp only [memRead, h]

/-- padbyte reads a message byte only, so memories that agree below LEN give the same padded byte (R69, R121). -/
theorem padbyte_with_msg {s : State} {m : Memory} (j : BitVec 6)
    (h : ∀ a, a < s.len.toNat → m.read a = s.msg.read a) : padbyte { s with msg := m } j = padbyte s j := by
  simp only [padbyte]
  split_ifs with hp
  · exact memRead_with_msg (h _ hp)
  · rfl

theorem execPadByte_with_msg {s : State} {m : Memory} (j : BitVec 6)
    (h : ∀ a, a < s.len.toNat → m.read a = s.msg.read a) :
    execPadByte j { s with msg := m } = (execPadByte j s).andThen fun u => .next { u with msg := m } := by
  simp only [execPadByte, padbyte_with_msg j h]
  split_ifs
  · cases padbyte s j with
    | next b => exact congrArg Host.Outcome.next (advance_with_msg (setBlk s j b) m _ _ _ _)
    | fault e => rfl
    | refused e => rfl
  · rfl

/-- Settles O49: PAD.BYTE reads below LEN, and no other operation reads the memory. -/
theorem bytesAboveLenNeverMatter : Obligations.BytesAboveLenNeverMatter := by
  intro i s m h
  by_cases hi : ∃ j, i = .padByte j
  · obtain ⟨j, rfl⟩ := hi
    exact execPadByte_with_msg j h
  · exact ignoresMsg_exec (not_exists.mp hi) s m

/-- Settles O48: the two cases of MemRead. -/
theorem memReadGivesListedByte : Obligations.MemReadGivesListedByte :=
  fun _ _ => ⟨memRead_next, memRead_fault⟩

/-! ## Host writes that stop -/

/-- A pending host write of the memory is taken off the list and made. -/
theorem step_of_turns_msgWrite {s : State} {a : BitVec 61} {b : Byte} {rest : List Turn}
    (ht : s.turns = .msgWrite a b :: rest) : step s = hostWriteMsg { s with turns := rest } a b := by
  simp only [step, nextMove, ht]

/-- A host write at or above MSG_BYTES faults. -/
theorem hostWriteMsg_fault {s : State} {a : BitVec 61} (b : Byte) (h : s.msgBytes.toNat ≤ a.toNat) :
    hostWriteMsg s a b = .fault (.msgAddressAbsent a.toNat) :=
  if_pos h

/-- A host write of a byte of the message is refused during a run. -/
theorem hostWriteMsg_refused {s : State} {a : BitVec 61} (b : Byte) (h : a.toNat < s.msgBytes.toNat)
    (hp : s.phase ≠ 0x0#4) (hl : a.toNat < s.len.toNat) : hostWriteMsg s a b = .refused .messageWriteDuringRun := by
  simp only [hostWriteMsg, Nat.not_le.mpr h, (busy_iff s).mpr hp, hl, decide_true, Bool.and_self, if_true, if_false]

/-- Settles O51: the step makes the pending write, and the write stops. -/
theorem forbiddenMessageWritesStop : Obligations.ForbiddenMessageWritesStop := by
  intro s a b rest ht
  rw [step_of_turns_msgWrite ht]
  exact ⟨fun ha => hostWriteMsg_fault b ha, fun ha hp hl => hostWriteMsg_refused b ha hp hl⟩

end Sys2Proof.Machine
end

section
/-! SUPPORT. Proofs of the encoding family (30_encoding.md R90 to R106): the decoder against the operation maps R98 and
R99, the round trips of words and bytes, positions without an operation, `setlen`, the layout of the padded message and
the host's message write. -/

namespace Sys2Proof

/-! ## Words assembled from fields -/

/-- Every host word is made of three fields (R95). -/
theorem exists_htWord (w : BitVec 37) : ∃ we a d, w = htWord we a d :=
  ⟨htWe w, htAddr w, htData w, (htWord_fields w).symm⟩

/-- Every micro-operation code is made of a phase and an index (R96). -/
theorem exists_uopWord (c : BitVec 10) : ∃ (p : BitVec 4) (t : BitVec 6), c = p ++ t :=
  ⟨uopPhase c, uopIdx c, (uopWord_fields c).symm⟩

/-! ## The decoder on fields -/

/-- The map R98 of a write word. -/
theorem decodeHt_write (a : BitVec 4) (d : Word) :
    decodeHt (htWord true a d) =
      if a = Reg.cmd then if d = startCommand then .start else .wrCmdRsvd d
      else if a = Reg.lenLo then .wrlenLo d
      else if a = Reg.lenHi then .wrlenHi d
      else .wrNop a d := by
  simp only [decodeHt, htWe_htWord, htAddr_htWord, htData_htWord, if_true]

/-- The map R98 of a read word: its data is ignored. -/
theorem decodeHt_read (a : BitVec 4) (d : Word) :
    decodeHt (htWord false a d) =
      if a = Reg.status then .rdstat
      else if a = Reg.lenLo then .rdlenLo
      else if a = Reg.lenHi then .rdlenHi
      else if a = Reg.nblkLo then .rdnblkLo
      else if a = Reg.nblkHi then .rdnblkHi
      else if a.getLsbD 3 then .rddig (a.extractLsb' 0 3)
      else .rdZero a := by
  simp only [decodeHt, htWe_htWord, htAddr_htWord, Bool.false_eq_true, if_false]

/-- The map R99 of the position with phase `p` and index `t`. -/
theorem decodeUop_append (p : BitVec 4) (t : BitVec 6) :
    decodeUop (p ++ t) =
      if p = Phase.idle then onlyIdxZero (p ++ t) .idle
      else if p = Phase.init then onlyIdxZero (p ++ t) .creInit
      else if p = Phase.padb then .ok (.padByte t)
      else if p = Phase.load then
        if t.toNat < 16 then .ok (.msxLoad (t.extractLsb' 0 4)) else .error (.noSuchPosition (p ++ t))
      else if p = Phase.exp then if 16 ≤ t.toNat then .ok (.msxExp t) else .error (.noSuchPosition (p ++ t))
      else if p = Phase.seed then onlyIdxZero (p ++ t) .creSeed
      else if p = Phase.round then .ok (.creRound t)
      else if p = Phase.ffwd then onlyIdxZero (p ++ t) .creFfwd
      else if p = Phase.out then onlyIdxZero (p ++ t) .digOut
      else .error (.noSuchPosition (p ++ t)) := by
  simp only [decodeUop, uopPhase_append, uopIdx_append]

/-! ## Decoding what was encoded -/

/-- The addresses 0x8 to 0xF are {1, k}, and R98's RDDIG row takes k back out. -/
theorem decodeHt_rddig (k : BitVec 3) (d : Word) : decodeHt (htWord false (Reg.digest k) d) = .rddig k := by
  have haddr : ∀ k : BitVec 3, Reg.digest k ∉ [Reg.status, Reg.lenLo, Reg.lenHi, Reg.nblkLo, Reg.nblkHi] ∧
      (Reg.digest k).getLsbD 3 = true ∧ (Reg.digest k).extractLsb' 0 3 = k := by decide
  obtain ⟨hk, hbit, hex⟩ := haddr k
  simp only [List.mem_cons, List.not_mem_nil, not_or, or_false] at hk
  obtain ⟨h1, h2, h3, h4, h5⟩ := hk
  rw [decodeHt_read, if_neg h1, if_neg h2, if_neg h3, if_neg h4, if_neg h5, if_pos hbit, hex]

/-- A write to a register without a function decodes to WR.NOP. -/
theorem decodeHt_wrNop {a : BitVec 4} (d : Word) (h : (Instr.wrNop a d).wf = true) :
    decodeHt (htWord true a d) = .wrNop a d := by
  simp only [Instr.wf, Bool.and_eq_true, bne_iff_ne] at h
  obtain ⟨⟨h0, h2⟩, h3⟩ := h
  rw [decodeHt_write, if_neg h0, if_neg h2, if_neg h3]

/-- A read of a register without a function decodes to RD.ZERO. -/
theorem decodeHt_rdZero {a : BitVec 4} (d : Word) (h : (Instr.rdZero a).wf = true) :
    decodeHt (htWord false a d) = .rdZero a := by
  simp only [Instr.wf, Bool.or_eq_true, beq_iff_eq] at h
  rcases h with (rfl | rfl) | rfl <;> exact decodeHt_read _ d

/-- MSX.LOAD's operand is the index with its two zeros taken off (R99). -/
theorem decodeUop_msxLoad (t : BitVec 4) : decodeUop (Phase.load ++ (0#2 ++ t)) = .ok (.msxLoad t) := by
  have hidx : ∀ t : BitVec 4, (0#2 ++ t).toNat < 16 ∧ (0#2 ++ t).extractLsb' 0 4 = t := by decide
  obtain ⟨hlt, hex⟩ := hidx t
  simp [decodeUop_append, hlt, hex]

/-- Settles O1, row by row of the two maps: a row with an operand uses the map's equation, or its lemma above. -/
theorem decodeEncodeRoundTrip : Obligations.DecodeEncodeRoundTrip := by
  intro i hi
  cases i with
  | wrCmdRsvd d =>
    have hd : d ≠ startCommand := by simpa [Instr.wf] using hi
    exact congrArg Except.ok ((decodeHt_write _ d).trans (if_neg hd))
  | wrNop a d => exact congrArg Except.ok (decodeHt_wrNop d hi)
  | rdZero a => exact congrArg Except.ok (decodeHt_rdZero _ hi)
  | rddig k => exact congrArg Except.ok (decodeHt_rddig k _)
  | wrlenLo v => exact congrArg Except.ok (decodeHt_write _ v)
  | wrlenHi v => exact congrArg Except.ok (decodeHt_write _ v)
  | padByte j => exact decodeUop_append Phase.padb j
  | msxLoad t => exact decodeUop_msxLoad t
  | msxExp t =>
    have ht : 16 ≤ t.toNat := of_decide_eq_true hi
    exact (decodeUop_append Phase.exp t).trans (if_pos ht)
  | creRound r => exact decodeUop_append Phase.round r
  | _ => rfl

/-! ## The round trip through bytes -/

/-- An operation's word is of the operation's format. -/
theorem encode_format (i : Instr) : (encode i).format = i.format := by
  cases i <;> rfl

/-- A word's number is one of its format's, and names the word. -/
theorem codeOfNat_toNat (c : Code) : codeOfNat c.format c.toNat = .ok c := by
  cases c with
  | ht w => simp only [codeOfNat, Code.format, Code.toNat, w.isLt, if_true, BitVec.ofNat_toNat, BitVec.setWidth_eq]
  | uop c => simp only [codeOfNat, Code.format, Code.toNat, c.isLt, if_true, BitVec.ofNat_toNat, BitVec.setWidth_eq]

/-- The bytes a format takes hold every number of its words. -/
theorem toNat_lt_bytes (c : Code) : c.toNat < 256 ^ c.format.bytes := by
  cases c with
  | ht w => exact w.isLt.trans (by decide : 2 ^ 37 < 256 ^ 5)
  | uop c => exact c.isLt.trans (by decide : 2 ^ 10 < 256 ^ 2)

/-- The bytes of a word spell its number. -/
theorem bytesToNat_bytes (c : Code) : bytesToNat c.bytes = c.toNat := by
  rw [Code.bytes, bytesToNat_natToBytes, Nat.mod_eq_of_lt (toNat_lt_bytes c)]

theorem length_bytes (c : Code) : c.bytes.length = c.format.bytes :=
  natToBytes_length _ _

/-- The bytes of a word decode to what the word decodes to, and the bytes after them are left over. -/
theorem decodeBytes_bytes_append {c : Code} {i : Instr} (h : decode c = .ok i) (rest : List Byte) :
    decodeBytes c.format (c.bytes ++ rest) = .ok (i, rest) := by
  have hlen : ¬ (c.bytes ++ rest).length < c.format.bytes := by
    rw [List.length_append, length_bytes]
    omega
  simp only [decodeBytes, if_neg hlen, List.take_left' (length_bytes c), List.drop_left' (length_bytes c),
    bytesToNat_bytes, codeOfNat_toNat, h]

/-- Settles O2: the word's bytes decode to what the word does, and O1 says what that is. -/
theorem byteDecodeEncodeRoundTrip : Obligations.ByteDecodeEncodeRoundTrip := by
  intro i rest hi
  rw [← encode_format i]
  exact decodeBytes_bytes_append (decodeEncodeRoundTrip i hi) rest

/-! ## Encoding what was decoded -/

/-- The addresses RDDIG is decoded from are {1, k}. -/
theorem digest_extract {a : BitVec 4} (h : a.getLsbD 3 = true) : Reg.digest (a.extractLsb' 0 3) = a := by
  revert a
  decide

/-- A write word comes back as it was. -/
theorem encode_decodeHt_write (a : BitVec 4) (d : Word) :
    encode (decodeHt (htWord true a d)) = .ht (htWord true a d) := by
  rw [decodeHt_write]
  split_ifs with h0 h1 h2 h3
  · rw [h0, h1]; rfl
  · rw [h0]; rfl
  · rw [h2]; rfl
  · rw [h3]; rfl
  · rfl

/-- A read word comes back with data 0 (R95). -/
theorem encode_decodeHt_read (a : BitVec 4) (d : Word) :
    encode (decodeHt (htWord false a d)) = .ht (htWord false a 0#32) := by
  rw [decodeHt_read]
  split_ifs with h1 h2 h3 h4 h5 hdig
  · rw [h1]; rfl
  · rw [h2]; rfl
  · rw [h3]; rfl
  · rw [h4]; rfl
  · rw [h5]; rfl
  · exact congrArg (fun x => Code.ht (htWord false x 0#32)) (digest_extract hdig)
  · rfl

/-- The index of LOAD comes back from the operand of MSX.LOAD. -/
theorem append_extract_load {t : BitVec 6} (ht : t.toNat < 16) : 0#2 ++ t.extractLsb' 0 4 = t := by
  revert t
  decide

/-- A code in use comes back as it was. -/
theorem encode_decodeUop {c : BitVec 10} {i : Instr} (h : decodeUop c = .ok i) : encode i = .uop c := by
  obtain ⟨p, t, rfl⟩ := exists_uopWord c
  rcases decodeUop_cases h with ⟨rfl, rfl, rfl⟩ | ⟨rfl, rfl, rfl⟩ | ⟨rfl, rfl⟩ | ⟨rfl, ht, rfl⟩ | ⟨rfl, -, rfl⟩ |
    ⟨rfl, rfl, rfl⟩ | ⟨rfl, rfl⟩ | ⟨rfl, rfl, rfl⟩ | ⟨rfl, rfl, rfl⟩
  on_goal 4 => exact congrArg (fun x => Code.uop (0x3#4 ++ x)) (append_extract_load ht)
  all_goals rfl

/-- The five bits above the data of a word (R95). -/
theorem extractLsb'_htWord (we : Bool) (a : BitVec 4) (d : Word) :
    (htWord we a d).extractLsb' 32 5 = BitVec.ofBool we ++ a :=
  BitVec.extractLsb'_append_eq_left

/-- Settles O3, one clause for each kind of word. -/
theorem encodeDecodeReturnsWord : Obligations.EncodeDecodeReturnsWord := by
  refine ⟨fun c i => encode_decodeUop, fun w hwe => ?_, fun w hwe => ?_⟩ <;>
    obtain ⟨we, a, d, rfl⟩ := exists_htWord w <;>
    obtain rfl := (htWe_htWord we a d).symm.trans hwe
  · exact encode_decodeHt_write a d
  · rw [extractLsb'_htWord]
    exact encode_decodeHt_read a d

/-! ## What decodes is well formed -/

/-- The addresses no row of R98 reads from are the ones RD.ZERO admits. -/
theorem wf_rdZero_of_no_row {a : BitVec 4} (h1 : a ≠ Reg.status) (h2 : a ≠ Reg.lenLo) (h3 : a ≠ Reg.lenHi)
    (h4 : a ≠ Reg.nblkLo) (h5 : a ≠ Reg.nblkHi) (hdig : ¬ a.getLsbD 3 = true) : (Instr.rdZero a).wf = true := by
  have hrows : ∀ a : BitVec 4, a ∈ [Reg.status, Reg.lenLo, Reg.lenHi, Reg.nblkLo, Reg.nblkHi] ∨
      a.getLsbD 3 = true ∨ (Instr.rdZero a).wf = true := by decide
  simpa only [List.mem_cons, List.not_mem_nil, h1, h2, h3, h4, h5, hdig, or_false, false_or,
    Bool.false_eq_true] using hrows a

/-- Every host word decodes to an operation that its row admits. -/
theorem wf_decodeHt (w : BitVec 37) : (decodeHt w).wf = true := by
  obtain ⟨we, a, d, rfl⟩ := exists_htWord w
  cases we with
  | true =>
    rw [decodeHt_write]
    split_ifs with h0 h1 h2 h3
    · rfl
    · exact bne_iff_ne.mpr h1
    · rfl
    · rfl
    · simp [Instr.wf, h0, h2, h3]
  | false =>
    rw [decodeHt_read]
    split_ifs with h1 h2 h3 h4 h5 hdig
    on_goal 7 => exact wf_rdZero_of_no_row h1 h2 h3 h4 h5 hdig
    all_goals rfl

/-- So does every micro-operation code that decodes. -/
theorem wf_of_decodeUop {c : BitVec 10} {i : Instr} (h : decodeUop c = .ok i) : i.wf = true := by
  obtain ⟨p, t, rfl⟩ := exists_uopWord c
  rcases decodeUop_cases h with ⟨-, -, rfl⟩ | ⟨-, -, rfl⟩ | ⟨-, rfl⟩ | ⟨-, -, rfl⟩ | ⟨-, ht, rfl⟩ | ⟨-, -, rfl⟩ |
    ⟨-, rfl⟩ | ⟨-, -, rfl⟩ | ⟨-, -, rfl⟩
  on_goal 5 => exact decide_eq_true ht
  all_goals rfl

/-- Settles O4, format by format. -/
theorem decodedOperationsAreWellFormed : Obligations.DecodedOperationsAreWellFormed := by
  intro c i h
  cases c with
  | ht w =>
    cases h
    exact ⟨wf_decodeHt w, decodeHt_format w⟩
  | uop c =>
    refine ⟨wf_of_decodeUop h, ?_⟩
    obtain ⟨p, t, rfl⟩ := exists_uopWord c
    exact Machine.decodeUop_format h

/-! ## The masks and matches of R98 and R99 -/

/-- A host word is the one with given fields when its fields are those. -/
theorem htWord_eq_iff {we : Bool} {a : BitVec 4} {d : Word} {w : BitVec 37} :
    htWord we a d = w ↔ we = htWe w ∧ a = htAddr w ∧ d = htData w := by
  constructor
  · rintro rfl
    simp only [htWe_htWord, htAddr_htWord, htData_htWord, and_self]
  · rintro ⟨rfl, rfl, rfl⟩
    exact htWord_fields w

/-- The mask of START compares the whole word. -/
theorem htWord_and_all (we : Bool) (a : BitVec 4) (d : Word) :
    htWord we a d &&& 0x1FFFFFFFFF#37 = htWord we a d :=
  BitVec.and_allOnes

/-- A mask of `we` and of some address bits drops the data and the other address bits. -/
theorem htWord_and_mask (we : Bool) (a m : BitVec 4) (d : Word) :
    htWord we a d &&& htWord true m 0#32 = htWord we (a &&& m) 0#32 := by
  show (BitVec.ofBool we ++ a ++ d) &&& (BitVec.allOnes 1 ++ m ++ 0#32) = _
  simp only [BitVec.and_append, BitVec.and_allOnes, BitVec.and_zero, htWord]

/-- The mask of a row with a fixed address compares `we` and the address. -/
theorem htWord_and_addr (we : Bool) (a : BitVec 4) (d : Word) :
    htWord we a d &&& 0x1F00000000#37 = htWord we a 0#32 :=
  (htWord_and_mask we a 15#4 d).trans (congrArg (htWord we · 0#32) BitVec.and_allOnes)

/-- The mask of WR.NOP compares `we`. -/
theorem htWord_and_we (we : Bool) (a : BitVec 4) (d : Word) :
    htWord we a d &&& 0x1000000000#37 = htWord we 0#4 0#32 :=
  (htWord_and_mask we a 0#4 d).trans (congrArg (htWord we · 0#32) BitVec.and_zero)

/-- The mask of RDDIG compares `we` and the top bit of the address. -/
theorem htWord_and_digest (we : Bool) (a : BitVec 4) (d : Word) :
    htWord we a d &&& 0x1800000000#37 = htWord we (a &&& 8#4) 0#32 :=
  htWord_and_mask we a 8#4 d

theorem and_eight_eq_iff (a : BitVec 4) : a &&& 8#4 = 8#4 ↔ a.getLsbD 3 = true := by
  revert a
  decide

/-- RDDIG's operand, three bits of the word, is the low part of the address. -/
theorem extractLsb'_digest (w : BitVec 37) : w.extractLsb' 32 3 = (htAddr w).extractLsb' 0 3 := by
  apply BitVec.eq_of_getLsbD_eq
  intro k hk
  have hk4 : k < 4 := by omega
  simp only [htAddr, BitVec.getLsbD_extractLsb', hk, hk4, decide_true, Bool.true_and, Nat.zero_add]

/-- Settles O5: on the three fields each mask selects the fields its row fixes, which leaves the map row by row. -/
theorem hostDecodeIsFirstMatchingRow : Obligations.HostDecodeIsFirstMatchingRow := by
  intro w
  obtain ⟨we, a, d, rfl⟩ := exists_htWord w
  have haddr : (htWord we a d).extractLsb' 32 4 = a := htAddr_htWord we a d
  have hdata : (htWord we a d).extractLsb' 0 32 = d := htData_htWord we a d
  rw [extractLsb'_digest, htAddr_htWord, haddr, hdata]
  simp only [htWord_and_all, htWord_and_addr, htWord_and_we, htWord_and_digest, htWord_eq_iff]
  cases we with
  | true =>
    rw [decodeHt_write]
    by_cases h0 : a = Reg.cmd <;> simp [htWe, htAddr, htData, h0]
  | false =>
    rw [decodeHt_read]
    simp [htWe, htAddr, htData, and_eight_eq_iff]

/-- A micro-operation code is the one with given fields when its fields are those. -/
theorem uop_eq_iff {p : BitVec 4} {t : BitVec 6} {c : BitVec 10} : p ++ t = c ↔ p = uopPhase c ∧ t = uopIdx c := by
  constructor
  · rintro rfl
    simp only [uopPhase_append, uopIdx_append, and_self]
  · rintro ⟨rfl, rfl⟩
    exact uopWord_fields c

/-- The mask of a row with a single code compares the whole code. -/
theorem uop_and_all (c : BitVec 10) : c &&& 0x3FF#10 = c :=
  BitVec.and_allOnes

/-- A mask of the phase and of some index bits drops the other index bits. -/
theorem uop_and_mask (p : BitVec 4) (t m : BitVec 6) : (p ++ t) &&& (15#4 ++ m) = p ++ (t &&& m) := by
  rw [BitVec.and_append, show p &&& 15#4 = p from BitVec.and_allOnes]

/-- The mask of a row with any index compares the phase. -/
theorem uop_and_phase (p : BitVec 4) (t : BitVec 6) : (p ++ t) &&& 0x3C0#10 = p ++ 0#6 :=
  (uop_and_mask p t 0#6).trans (congrArg (p ++ ·) BitVec.and_zero)

/-- The mask of MSX.LOAD compares the phase and the top two bits of the index, which are 0 below 16. -/
theorem uop_and_load (p : BitVec 4) (t : BitVec 6) : (p ++ t) &&& 0x3F0#10 = p ++ (t &&& 0x30#6) :=
  uop_and_mask p t 0x30#6

theorem and_load_eq_zero_iff (t : BitVec 6) : t &&& 0x30#6 = 0#6 ↔ t.toNat < 16 := by
  revert t
  decide

/-- MSX.LOAD's operand, four bits of the code, is the low part of the index. -/
theorem extractLsb'_load (p : BitVec 4) (t : BitVec 6) : (p ++ t).extractLsb' 0 4 = t.extractLsb' 0 4 := by
  rw [BitVec.extractLsb'_append_eq_of_add_le (by decide)]

theorem onlyIdxZero_append (p : BitVec 4) (t : BitVec 6) (i : Instr) :
    onlyIdxZero (p ++ t) i = if t = 0#6 then .ok i else .error (.noSuchPosition (p ++ t)) := by
  simp only [onlyIdxZero, uopIdx_append]

/-- Settles O6: each mask selects the fields its row fixes; a phase whose index is out of its row's range is no other
row's. -/
theorem uopDecodeIsOperationMap : Obligations.UopDecodeIsOperationMap := by
  intro c
  obtain ⟨p, t, rfl⟩ := exists_uopWord c
  have hidx : (p ++ t).extractLsb' 0 6 = t := uopIdx_append p t
  rw [hidx, extractLsb'_load]
  simp only [uop_and_all, uop_and_phase, uop_and_load, uop_eq_iff, decodeUop_append, onlyIdxZero_append]
  by_cases h0 : p = Phase.idle
  · simp [uopPhase, uopIdx, h0]
  by_cases h1 : p = Phase.init
  · simp [uopPhase, uopIdx, h1]
  by_cases h3 : p = Phase.load
  · simp [uopPhase, uopIdx, h3, and_load_eq_zero_iff]
  by_cases h4 : p = Phase.exp
  · simp [uopPhase, uopIdx, h4]
  by_cases h5 : p = Phase.seed
  · simp [uopPhase, uopIdx, h5]
  by_cases h7 : p = Phase.ffwd
  · simp [uopPhase, uopIdx, h7]
  by_cases h8 : p = Phase.out
  · simp [uopPhase, uopIdx, h8]
  simp [uopPhase, uopIdx, h0, h1, h3, h4, h5, h7, h8]

/-- Settles O7 by running the decoder on the thirteen words. -/
theorem sampleWordsDecode : Obligations.SampleWordsDecode :=
  ⟨rfl, rfl, rfl, rfl, rfl, rfl, rfl, rfl, rfl, rfl, rfl, rfl, rfl⟩

end Sys2Proof

namespace Sys2Proof.Machine

/-! ## Positions without an operation -/

/-- A position that has an operation is one of the control program. -/
theorem posLegal_of_decodeUop {p : BitVec 4} {t : BitVec 6} {i : Instr} (h : decodeUop (p ++ t) = .ok i) :
    posLegal p t = true := by
  rcases decodeUop_cases h with ⟨rfl, rfl, -⟩ | ⟨rfl, rfl, -⟩ | ⟨rfl, -⟩ | ⟨rfl, ht, -⟩ | ⟨rfl, ht, -⟩ |
    ⟨rfl, rfl, -⟩ | ⟨rfl, -⟩ | ⟨rfl, rfl, -⟩ | ⟨rfl, rfl, -⟩
  on_goal 5 => exact decide_eq_true ht
  on_goal 4 => exact decide_eq_true ht
  all_goals rfl

/-- A code that is no position of the control program is refused under its number. -/
theorem runCode_refused {p : BitVec 4} {t : BitVec 6} (h : posLegal p t = false) (s : State) :
    runCode (.uop (p ++ t)) s = .refused (.noSuchPosition (p ++ t)) := by
  cases hd : decodeUop (p ++ t) with
  | ok i => simp [posLegal_of_decodeUop hd] at h
  | error e => simp only [runCode, hd]

/-- Settles O9: the sequencer's step runs the code of its position, and MSX.EXP tests its index first. -/
theorem unusedPositionsAreRefused : Obligations.UnusedPositionsAreRefused := by
  refine ⟨fun s hturns hpos => ?_, fun s t ht => if_pos ht⟩
  rcases hturns with hnil | ⟨rest, hseq⟩
  · rw [step_of_turns_nil hnil]
    exact runCode_refused hpos s
  · rw [step_of_turns_sequencer hseq]
    exact runCode_refused hpos _

/-! ## `setlen` -/

/-- While idle a write of LEN takes effect. -/
theorem writeLen_idle {s : State} (hp : s.phase = 0x0#4) (x : BitVec 64) : writeLen s x = setLen s x := by
  simp only [writeLen, (not_busy_iff s).mpr hp, Bool.false_eq_true, if_false]

/-- A pending write of LEN_LO while idle replaces the low half (R193). -/
theorem step_wrlenLo {s : State} {v : Word} {rest : List Turn} (hp : s.phase = 0x0#4)
    (ht : s.turns = asmWr Reg.lenLo v :: rest) :
    step s = .next { s with len := lenWithLo s.len v, turns := rest } := by
  rw [step_of_turns_transaction ht, decodeHt_write]
  exact congrArg Host.Outcome.next (writeLen_idle (s := { s with turns := rest }) hp _)

/-- A pending write of LEN_HI while idle replaces the high half (R193). -/
theorem step_wrlenHi {s : State} {v : Word} {rest : List Turn} (hp : s.phase = 0x0#4)
    (ht : s.turns = asmWr Reg.lenHi v :: rest) :
    step s = .next { s with len := lenWithHi s.len v, turns := rest } := by
  rw [step_of_turns_transaction ht, decodeHt_write]
  exact congrArg Host.Outcome.next (writeLen_idle (s := { s with turns := rest }) hp _)

/-- Both halves of a length, written one after the other, make that length whatever stood there. -/
theorem lenWithHi_lenWithLo (len L : BitVec 64) :
    lenWithHi (lenWithLo len (L.extractLsb' 0 32)) (L.extractLsb' 32 32) = L := by
  unfold lenWithHi lenWithLo
  rw [BitVec.extractLsb'_append_eq_right, BitVec.extractLsb'_append_extractLsb'_eq_extractLsb' (rfl : 32 = 0 + 32)]
  exact BitVec.extractLsb'_eq_self

/-- Settles O24: the low half, then the high half. -/
theorem setlenStoresLength : Obligations.SetlenStoresLength := by
  intro s L rest hp ht
  have hhi := step_wrlenHi (v := L.extractLsb' 32 32) (rest := rest)
    (s := { s with
      len := lenWithLo s.len (L.extractLsb' 0 32), turns := asmWr Reg.lenHi (L.extractLsb' 32 32) :: rest }) hp rfl
  rw [lenWithHi_lenWithLo] at hhi
  exact (run_next (step_wrlenLo hp ht)).trans (run_next hhi)

/-! ## The host's message write -/

/-- A host write of an existing byte outside the message of a run writes it (R105, R255). -/
theorem hostWriteMsg_writes {s : State} {a : BitVec 61} (b : Byte) (ha : a.toNat < s.msgBytes.toNat)
    (hfree : s.phase = 0x0#4 ∨ s.len.toNat ≤ a.toNat) :
    hostWriteMsg s a b = .next { s with msg := s.msg.write a.toNat b } := by
  have hsafe : ¬ (busy s && decide (a.toNat < s.len.toNat)) = true := by
    simpa [busy_iff, or_iff_not_imp_left] using hfree
  rw [hostWriteMsg, if_neg (Nat.not_le.mpr ha), if_neg hsafe]

/-- Settles O50: the memory after the step is the written one, and the laws of `Memory.write` say what it holds. -/
theorem hostMessageWriteChangesOneByte : Obligations.HostMessageWriteChangesOneByte := by
  intro s a b rest ht ha hfree hwf
  refine ⟨s.msg.write a.toNat b, ?_, Memory.write_wf hwf, Memory.read_write_same hwf,
    fun c hc => Memory.read_write_other hc⟩
  rw [step_of_turns_msgWrite ht]
  exact hostWriteMsg_writes b ha hfree

/-! ## The bits of the padded message (R91) -/

/-- PAD.BYTE j leaves in BLK[j] the padded byte at its position. -/
theorem blk_of_execPadByte {s u : State} {j : BitVec 6} (h : exec (.padByte j) s = .next u) :
    u.blk[j.toNat]'(j.isLt) = refPadded s.msg s.len.toNat (padPos s.i j) := by
  cases uopEffect_of_execPadByte h
  simp [advance_eq]

/-- Stream bit q of byte p is bit 7 - q of that byte (R7). -/
theorem refPaddedBit_eq (m : Memory) (L p : Nat) {q : Nat} (hq : q < 8) :
    refPaddedBit m L (8 * p + q) = (refPadded m L p).getLsbD (7 - q) := by
  have hdiv : (8 * p + q) / 8 = p := by omega
  have hmod : (8 * p + q) % 8 = q := by omega
  rw [refPaddedBit, hdiv, hmod]

/-- The length field starts after byte L, and is the end of the last block (R120). -/
theorem nBytes_bounds (L : Nat) : L + 8 < nBytes L ∧ nBytes L ≤ L + 72 := by
  unfold nBytes nBlocks
  omega

/-- The stream bits below 8L are the message's. -/
theorem refPaddedBit_message (m : Memory) {L x : Nat} (h : x < 8 * L) :
    refPaddedBit m L x = (m.read (x / 8)).getLsbD (7 - x % 8) := by
  have hp : x / 8 < L := by omega
  rw [refPaddedBit, refPadded, if_pos hp]

/-- At and above bit 8L stands the fill. -/
theorem refPaddedBit_fill (m : Memory) {L x : Nat} (h : 8 * L ≤ x) :
    refPaddedBit m L x = (padFill L (x / 8)).getLsbD (7 - x % 8) := by
  have hp : ¬ x / 8 < L := by omega
  rw [refPaddedBit, refPadded, if_neg hp]

/-- Bit 8L is one: the top bit of the marker 0x80. -/
theorem refPaddedBit_marker (m : Memory) (L : Nat) : refPaddedBit m L (8 * L) = true := by
  rw [refPaddedBit_fill m (Nat.le_refl _)]
  simp [padFill]

/-- Then come zeros up to the length field: the other seven bits of the marker and the zero bytes. -/
theorem refPaddedBit_zero (m : Memory) {L x : Nat} (h : 8 * L < x) (hx : x < 8 * (nBytes L - 8)) :
    refPaddedBit m L x = false := by
  rw [refPaddedBit_fill m h.le]
  by_cases hp : x / 8 = L
  · have hmarker : ∀ k, k < 7 → (0x80#8).getLsbD k = false := by decide
    rw [padFill, if_pos hp]
    exact hmarker _ (by omega)
  · have hz : x / 8 < nBytes L - 8 := by omega
    rw [padFill, if_neg hp, if_pos hz]
    exact BitVec.getLsbD_zero

/-- The last 64 bits are the bit length, most significant first. -/
theorem refPaddedBit_length (m : Memory) {L x : Nat} (h : 8 * (nBytes L - 8) ≤ x) (hx : x < 8 * nBytes L) :
    refPaddedBit m L x = (8 * L).testBit (63 - (x - 8 * (nBytes L - 8))) := by
  have hb := nBytes_bounds L
  have hp : ¬ x / 8 = L := by omega
  have hz : ¬ x / 8 < nBytes L - 8 := by omega
  rw [refPaddedBit_fill m (by omega), padFill, if_neg hp, if_neg hz, lenFieldByte, BitVec.getLsbD_ofNat,
    show 256 = 2 ^ 8 from rfl, Nat.testBit_mod_two_pow, Nat.testBit_div_two_pow]
  have hbit : 7 - x % 8 < 8 := by omega
  simp only [hbit, decide_true, Bool.true_and]
  exact congrArg (8 * L).testBit (by omega)

/-- Settles O28: the stored bit is a bit of the padded message, which has the four regions of R91. -/
theorem paddedBitLayout : Obligations.PaddedBitLayout := by
  intro s t j q hq _ _ hi hexec L n x bit
  have hb := nBytes_bounds L
  have hn : n = 8 * nBytes L := by simp only [n, L, nBytes]; omega
  have hfield : n - 64 = 8 * (nBytes L - 8) := by omega
  have hbit : bit = refPaddedBit s.msg L x := by
    rw [refPaddedBit_eq _ _ _ hq]
    exact congrArg (fun y => BitVec.getLsbD y (7 - q)) (blk_of_execPadByte hexec)
  have hiL : s.i.toNat < nBlocks L := hi
  have hxn : x < n := by
    have := j.isLt
    omega
  rw [hbit]
  refine ⟨refPaddedBit_message s.msg, fun hx => ?_, fun h1 h2 => ?_, fun h => ⟨hxn, ?_⟩, by omega, by omega⟩
  · rw [hx]
    exact refPaddedBit_marker s.msg L
  · exact refPaddedBit_zero s.msg h1 (by omega)
  · rw [hfield]
    exact refPaddedBit_length s.msg (by omega) (by omega)

end Sys2Proof.Machine
end

section
/-! SUPPORT. Proofs of the framing family (40_pad_framing.md R120 to R127): the number of blocks and PAD.BYTE inside and
outside its domain. -/

namespace Sys2Proof.Machine

/-! ## The number of blocks -/

/-- NB is the ceiling of (8L + 65) / 512: the message bits, the marker bit and the 64 bits of the length (R120). -/
theorem nBlocks_eq_ceiling (L : Nat) : nBlocks L = (8 * L + 65 + 511) / 512 := by
  unfold nBlocks
  omega

/-- Inside the domain of L there are at most 2^55 + 1 blocks (R120). -/
theorem nBlocks_le {L : Nat} (h : L ≤ 2 ^ 61 - 1) : nBlocks L ≤ 2 ^ 55 + 1 := by
  unfold nBlocks
  omega

/-- Settles O25: the ceiling and the two bounds of R120. -/
theorem blockCountIsCeiling : Obligations.BlockCountIsCeiling := by
  intro L
  obtain ⟨hlen, -⟩ := nBytes_bounds L
  exact ⟨rfl, nBlocks_eq_ceiling L, Nat.succ_pos _, nBlocks_le, rfl, by omega⟩

/-- The marker and the length take nine bytes: they fit behind the message's last bytes up to L mod 64 = 55 (R124). -/
theorem nBlocks_by_mod (L : Nat) : nBlocks L = if L % 64 ≤ 55 then L / 64 + 1 else L / 64 + 2 := by
  unfold nBlocks
  split <;> omega

/-- One byte more takes one block more exactly at L mod 64 = 55 (R125). -/
theorem nBlocks_succ (L : Nat) : nBlocks (L + 1) = if L % 64 = 55 then nBlocks L + 1 else nBlocks L := by
  unfold nBlocks
  split <;> omega

/-- Settles O26: R124's table, and R125's boundary with its first instance. -/
theorem blockCountBoundary : Obligations.BlockCountBoundary :=
  ⟨nBlocks_by_mod, nBlocks_succ, rfl, rfl⟩

/-! ## PAD.BYTE -/

/-- A byte of the length field is the low eight bits of the shifted bit length (R93). -/
theorem lenFieldByte_eq (L q : Nat) : lenFieldByte L q = BitVec.ofNat 8 (8 * L / 2 ^ (8 * (7 - q))) :=
  BitVec.eq_of_toNat_eq (Nat.mod_mod _ _)

/-- The padded byte by the four cases of R121, in their order. -/
theorem refPadded_eq (m : Memory) (L p : Nat) :
    refPadded m L p =
      if p < L then m.read p
      else if p = L then 0x80#8
      else if p < nBytes L - 8 then 0x00#8
      else BitVec.ofNat 8 (8 * L / 2 ^ (8 * (7 - (p - (nBytes L - 8))))) := by
  rw [refPadded, padFill, lenFieldByte_eq]

/-- Inside the domain of R127 PAD.BYTE completes, with the padded byte stored and the position moved on. -/
theorem exec_padByte_next {s : State} {j : BitVec 6} (h : PadDomain s) :
    exec (.padByte j) s =
      .next (advance (setBlk s j (refPadded s.msg s.len.toNat (padPos s.i j))) Phase.padb j Phase.load 0#6) := by
  rw [exec, execPadByte, if_pos h, padbyte_next h]
  rfl

/-- Outside the domain of R127 it is refused. -/
theorem exec_padByte_refused {s : State} (j : BitVec 6) (h : ¬ PadDomain s) :
    exec (.padByte j) s = .refused .padOutsideDomain :=
  if_neg h

/-- The next index as a number. -/
theorem index_succ (j : BitVec 6) : j + 1#6 = BitVec.ofNat 6 (j.toNat + 1) := by
  rw [BitVec.ofNat_add, BitVec.ofNat_toNat, BitVec.setWidth_eq]

/-- Settles O27: the padded byte is R121's, and `advance` moves the position and changes nothing else. -/
theorem padByteStoresPaddedByte : Obligations.PadByteStoresPaddedByte := by
  refine ⟨decodeUop_append Phase.padb, fun s j hL hM hi => ?_⟩
  have hdom : PadDomain s := ⟨⟨by omega, by omega⟩, hi⟩
  rw [exec_padByte_next hdom, advance_eq, index_succ, refPadded_eq]
  rfl

/-- Settles O29: each of the three ways out contradicts one part of the domain. -/
theorem padByteOutsideDomainIsRefused : Obligations.PadByteOutsideDomainIsRefused := by
  intro s j hout
  refine exec_padByte_refused j fun ⟨⟨hlen, hmsg⟩, hi⟩ => ?_
  rcases hout with h | h | h
  · exact Nat.not_lt.mpr h hlen
  · exact hmsg h
  · exact Nat.not_lt.mpr h hi

end Sys2Proof.Machine
end

section
/-! SUPPORT. Proofs of the schedule family (41_msx_schedule.md R140 to R142): the reference schedule, MSX.LOAD and
MSX.EXP. -/

namespace Sys2Proof.Machine

/-! ## The reference schedule -/

/-- Settles O60: `refSchedule_load` gives a word of the block, `refSchedule_eq` the recurrence. -/
theorem scheduleIsRecurrence : Obligations.ScheduleIsRecurrence :=
  fun b => ⟨fun t ht => refSchedule_load b (BitVec.ofNatLT t ht),
    fun t ht => (refSchedule_eq b t).trans (if_neg (Nat.not_lt.mpr ht))⟩

/-! ## MSX.LOAD -/

/-- The number of two joined words: the first counts above the bits of the second. -/
theorem toNat_append_eq_mul_add {m n : Nat} (x : BitVec m) (y : BitVec n) :
    (x ++ y).toNat = x.toNat * 2 ^ n + y.toNat := by
  rw [BitVec.toNat_append, ← Nat.shiftLeft_add_eq_or_of_lt y.isLt, Nat.shiftLeft_eq]

/-- A word of four bytes is their big-endian sum (R97 (a)). -/
theorem beWord_eq_ofNat (b0 b1 b2 b3 : Byte) :
    beWord b0 b1 b2 b3 =
      BitVec.ofNat 32 (b0.toNat * 2 ^ 24 + b1.toNat * 2 ^ 16 + b2.toNat * 2 ^ 8 + b3.toNat) := by
  have hsum : (beWord b0 b1 b2 b3).toNat =
      b0.toNat * 2 ^ 24 + b1.toNat * 2 ^ 16 + b2.toNat * 2 ^ 8 + b3.toNat := by
    simp only [beWord, toNat_append_eq_mul_add]
    omega
  rw [← hsum, BitVec.ofNat_toNat, BitVec.setWidth_eq]

/-- MSX.LOAD always completes, with the block's word stored and the position moved on (R140). -/
theorem exec_msxLoad (t : BitVec 4) (s : State) :
    exec (.msxLoad t) s =
      .next (setPos (setW s (loadIdx t) (blockWord s.blk t))
        (if t.toNat < 15 then Phase.load else Phase.exp) (if t.toNat < 15 then loadIdx t + 1#6 else 16#6)) := by
  rw [exec, execMsxLoad]
  split <;> rfl

/-- Settles O30: the stored word is the big-endian sum, and the index counts as a number. -/
theorem msxLoadFormsWord : Obligations.MsxLoadFormsWord := by
  refine ⟨decodeUop_msxLoad, fun s t => ?_⟩
  rw [exec_msxLoad, blockWord, beWord_eq_ofNat, index_succ]
  simp only [setPos, setW, loadIdx_toNat]

/-! ## MSX.EXP -/

/-- An entry `d` places back is at the difference of the numbers: the 6-bit subtraction does not wrap. -/
theorem entry_sub (x : Vector Word 64) {t d : BitVec 6} (h : d.toNat ≤ t.toNat) :
    entry x (t - d) = x[t.toNat - d.toNat]'(by omega) := by
  simp only [entry, BitVec.toNat_sub_of_le (BitVec.le_def.mpr h)]

/-- The recurrence is a sum of numbers modulo 2^32 (R141). -/
theorem expandWord_eq_ofNat (w16 w15 w7 w2 : Word) :
    expandWord w16 w15 w7 w2 =
      BitVec.ofNat 32 (w16.toNat + (ssig0 w15).toNat + w7.toNat + (ssig1 w2).toNat) := by
  simp only [expandWord, add32, BitVec.ofNat_add, BitVec.ofNat_toNat, BitVec.setWidth_eq]

/-- From index 16 on MSX.EXP completes, with the recurrence on four earlier entries stored (R141). -/
theorem exec_msxExp {t : BitVec 6} (ht : 16 ≤ t.toNat) (s : State) :
    exec (.msxExp t) s =
      .next (advance (setW s t (expandWord (s.w[t.toNat - 16]'(by omega)) (s.w[t.toNat - 15]'(by omega))
        (s.w[t.toNat - 7]'(by omega)) (s.w[t.toNat - 2]'(by omega)))) Phase.exp t Phase.seed 0#6) := by
  have h15 : 15 ≤ t.toNat := by omega
  have h7 : 7 ≤ t.toNat := by omega
  have h2 : 2 ≤ t.toNat := by omega
  rw [exec, execMsxExp, if_neg (Nat.not_lt.mpr ht), entry_sub s.w (d := 16#6) ht, entry_sub s.w (d := 15#6) h15,
    entry_sub s.w (d := 7#6) h7, entry_sub s.w (d := 2#6) h2]
  rfl

/-- Settles O31: the recurrence on numbers, and `advance` moves the position and changes nothing else. -/
theorem msxExpComputesRecurrence : Obligations.MsxExpComputesRecurrence := by
  refine ⟨fun t ht => (decodeUop_append Phase.exp t).trans (if_pos ht), fun s t ht => ?_⟩
  rw [exec_msxExp ht, expandWord_eq_ofNat, advance_eq, index_succ]
  rfl

end Sys2Proof.Machine
end

section
/-! SUPPORT. Proofs of the compression family (42_cre_compression.md R160 to R163): CRE.INIT, CRE.SEED, CRE.ROUND and
CRE.FFWD. -/

namespace Sys2Proof.Machine

/-! ## The accumulator and the working registers -/

/-- Settles O32: code 0x040 is (INIT, 0), and the ROM holds the words of R31. -/
theorem creInitLoadsIv : Obligations.CreInitLoadsIv :=
  ⟨decodeUop_append Phase.init 0#6, fun _ => rfl⟩

/-- Settles O33: code 0x140 is (SEED, 0), and the copy leaves H. -/
theorem creSeedCopiesAccumulator : Obligations.CreSeedCopiesAccumulator :=
  ⟨decodeUop_append Phase.seed 0#6, fun _ => rfl⟩

/-! ## CRE.ROUND -/

/-- A sum of numbers taken modulo 2^32 is add32 of its last word to the rest (R8). -/
theorem ofNat_add_toNat (n : Nat) (x : Word) : BitVec.ofNat 32 (n + x.toNat) = add32 (BitVec.ofNat 32 n) x := by
  rw [BitVec.ofNat_add, BitVec.ofNat_toNat, BitVec.setWidth_eq, add32]

/-- CRE.ROUND always completes, with the round function's value stored and the position moved on (R162). -/
theorem exec_creRound (r : BitVec 6) (s : State) :
    exec (.creRound r) s =
      .next (advance (setV s (roundFn s.v (entry kRom r) (entry s.w r))) Phase.round r Phase.ffwd 0#6) :=
  rfl

/-- Settles O34: the sums on numbers are the round function's chains of add32, and `advance` moves the position and
changes nothing else. -/
theorem creRoundMixesRegisters : Obligations.CreRoundMixesRegisters := by
  refine ⟨decodeUop_append Phase.round, fun s r => ?_⟩
  rw [exec_creRound, advance_eq, index_succ]
  simp only [ofNat_add_toNat, BitVec.ofNat_toNat, BitVec.setWidth_eq]
  rfl

/-! ## CRE.FFWD -/

/-- The eight sums of the feed-forward, word by word. -/
theorem addWords_eq (x y : Words8) :
    addWords x y = #v[x[0] + y[0], x[1] + y[1], x[2] + y[2], x[3] + y[3],
                      x[4] + y[4], x[5] + y[5], x[6] + y[6], x[7] + y[7]] :=
  rfl

/-- CRE.FFWD always completes, with the sums stored, the block counted and the position chosen by I before the step
(R163). -/
theorem exec_creFfwd (s : State) :
    exec .creFfwd s =
      .next (setPos (setI (setH s (addWords s.h s.v)) (s.i + 1#56))
        (if s.i.toNat + 1 < nBlocks s.len.toNat then Phase.padb else Phase.out) 0#6) := by
  rw [exec, execCreFfwd]
  split <;> rfl

/-- Settles O35: the sums word by word, and NB by its formula. -/
theorem creFfwdAddsAndCounts : Obligations.CreFfwdAddsAndCounts := by
  refine ⟨decodeUop_append Phase.ffwd 0#6, fun s => ?_⟩
  rw [exec_creFfwd, addWords_eq, nBlocks]
  rfl

end Sys2Proof.Machine
end

section
/-! SUPPORT. Proofs of the output family (43_digest_output.md R180 to R182): DIG.OUT, and the digest as bytes and as
text. -/

namespace Sys2Proof.Machine

/-! ## DIG.OUT -/

/-- Settles O39: code 0x200 is (OUT, 0), and the three writes are the latched H, DONE and the position (IDLE, 0). -/
theorem digOutLatchesDigest : Obligations.DigOutLatchesDigest :=
  ⟨decodeUop_append Phase.out 0#6, fun _ => rfl⟩

/-! ## Lists of equal parts -/

section EqualParts
variable {α β : Type} {f : α → List β} {m : Nat}

/-- `l.length` parts of `m` entries each. -/
theorem length_flatMap_of_length_eq (hf : ∀ a, (f a).length = m) (l : List α) :
    (l.flatMap f).length = l.length * m := by
  simp [List.length_flatMap, hf]

/-- Entry m k + n of a list of parts of length m is entry n of part k. -/
theorem getElem?_flatMap_of_length_eq (hf : ∀ a, (f a).length = m) {n : Nat} (hn : n < m) :
    ∀ (l : List α) (k : Nat) (hk : k < l.length), (l.flatMap f)[m * k + n]? = (f l[k])[n]?
  | a :: l, 0, _ => by
    rw [Nat.mul_zero, Nat.zero_add, List.flatMap_cons, List.getElem?_append_left (by rw [hf]; exact hn)]
    rfl
  | a :: l, k + 1, hk => by
    have hskip : m * (k + 1) + n - (f a).length = m * k + n := by rw [hf, Nat.mul_succ]; omega
    rw [List.flatMap_cons, List.getElem?_append_right (by rw [hf, Nat.mul_succ]; omega), hskip]
    exact getElem?_flatMap_of_length_eq hf hn l k (Nat.lt_of_succ_lt_succ hk)

/-- Eight words rendered one after the other, each by `m` entries. -/
theorem length_flatMap_words {f : Word → List β} (hf : ∀ x, (f x).length = m) (d : Words8) :
    (d.toList.flatMap f).length = 8 * m := by
  rw [length_flatMap_of_length_eq hf, Vector.length_toList]

theorem getElem?_flatMap_words {f : Word → List β} (hf : ∀ x, (f x).length = m) (d : Words8) {k n : Nat} (hk : k < 8)
    (hn : n < m) : (d.toList.flatMap f)[m * k + n]? = (f d[k])[n]? := by
  rw [getElem?_flatMap_of_length_eq hf hn d.toList k (by rwa [Vector.length_toList]), Vector.getElem_toList]

end EqualParts

/-! ## The digest as bytes -/

theorem wordBytes_length (x : Word) : (wordBytes x).length = 4 := rfl

/-- The bytes of a word, most significant first (R181). -/
theorem wordBytes_getElem? (x : Word) {q : Nat} (hq : q < 4) :
    (wordBytes x)[q]? = some (x.extractLsb' (24 - 8 * q) 8) := by
  match q, hq with
  | 0, _ | 1, _ | 2, _ | 3, _ => rfl

/-- Settles O40: byte 4k + q of the digest is byte q of word k. -/
theorem digestBytesLayout : Obligations.DigestBytesLayout := fun d =>
  ⟨length_flatMap_words wordBytes_length d, fun _ _ hk hq =>
    (getElem?_flatMap_words wordBytes_length d hk hq).trans (wordBytes_getElem? _ hq)⟩

/-! ## The digest as text -/

theorem hexAlphabet_eq : "0123456789abcdef".toList = hexAlphabet := rfl

/-- Every digit is in [0-9a-f]: there are 16 nibbles. -/
theorem hexDigit_range : ∀ n : BitVec 4,
    ('0' ≤ hexDigit n ∧ hexDigit n ≤ '9') ∨ ('a' ≤ hexDigit n ∧ hexDigit n ≤ 'f') := by decide

theorem some_hexDigit (n : BitVec 4) : some (hexDigit n) = hexAlphabet[n.toNat]? :=
  (List.getElem?_eq_getElem _).symm

/-- The digit of bits lo + 3 to lo of a word is picked by the word's value (R182). -/
theorem some_hexDigit_extractLsb' (x : Word) (lo : Nat) :
    some (hexDigit (x.extractLsb' lo 4)) = hexAlphabet[x.toNat / 2 ^ lo % 16]? := by
  rw [some_hexDigit, BitVec.extractLsb'_toNat, Nat.shiftRight_eq_div_pow]

theorem hexWord_length (x : Word) : (hexWord x).length = 8 := rfl

/-- The digits of a word, most significant first (R182). -/
theorem hexWord_getElem? (x : Word) {n : Nat} (hn : n < 8) :
    (hexWord x)[n]? = some (hexDigit (x.extractLsb' (28 - 4 * n) 4)) := by
  match n, hn with
  | 0, _ | 1, _ | 2, _ | 3, _ | 4, _ | 5, _ | 6, _ | 7, _ => rfl

theorem exists_hexDigit_of_mem_hexWord {x : Word} {c : Char} (hc : c ∈ hexWord x) : ∃ n, c = hexDigit n := by
  obtain ⟨n, hn, rfl⟩ := List.getElem_of_mem hc
  exact ⟨_, (List.getElem?_eq_some_iff.mp (hexWord_getElem? x hn)).2⟩

/-- Settles O41: character 8k + n of the text is digit n of word k, and every digit is in [0-9a-f]. -/
theorem hexDigestLayout : Obligations.HexDigestLayout := by
  refine fun d => ⟨length_flatMap_words hexWord_length d, fun c hc => ?_, fun k n hk hn => ?_⟩
  · obtain ⟨x, _, hcx⟩ := List.mem_flatMap.mp hc
    obtain ⟨v, rfl⟩ := exists_hexDigit_of_mem_hexWord hcx
    exact hexDigit_range v
  · rw [hexDigest, getElem?_flatMap_words hexWord_length d hk hn, hexWord_getElem? _ hn,
      some_hexDigit_extractLsb', hexAlphabet_eq]

end Sys2Proof.Machine
end

section
/-! SUPPORT. Proofs of the host and sequencer family (44_host_sequencer.md R190 to R205): what a host transaction does
while idle and while busy, the successor of a position, how many micro-operations a run takes, and what a whole run
computes. -/

namespace Sys2Proof.Machine

/-! ## START (R192) -/

/-- START while busy does nothing. -/
theorem exec_start_busy {s : State} (hp : s.phase ≠ Phase.idle) : exec .start s = .next s :=
  if_pos ((busy_iff s).mpr hp)

/-- START while idle begins a run inside the domain of R192 and is refused outside it. -/
theorem exec_start_idle {s : State} (hp : s.phase = Phase.idle) :
    exec .start s =
      if 2 ^ 61 ≤ s.len.toNat then .refused .startLengthTooLong
      else if s.msgBytes.toNat < s.len.toNat then .refused .startLengthOverMsgBytes
      else .next (setPos (setI (setDone s false) 0#56) Phase.init 0#6) :=
  if_neg (by simp [(not_busy_iff s).mpr hp])

/-- A START that is accepted found LEN in the domain, and the run it begins is at (INIT, 0). -/
theorem exec_start_next {s u : State} (hp : s.phase = Phase.idle) (h : exec .start s = .next u) :
    LenInDomain s ∧ u = setPos (setI (setDone s false) 0#56) Phase.init 0#6 := by
  rw [exec_start_idle hp] at h
  split at h
  · cases h
  · split at h
    · cases h
    · cases h
      exact ⟨⟨by omega, by omega⟩, rfl⟩

/-- Settles O11: code 0x1000000001 is the write of 1 to CMD, and the four cases are those of `exec_start_idle` and
`exec_start_busy`. -/
theorem startBeginsRun : Obligations.StartBeginsRun := by
  refine ⟨congrArg Except.ok (decodeHt_write Reg.cmd startCommand), fun s => ⟨?_, exec_start_busy, ?_, ?_⟩⟩
  · intro hp hlen hmsg
    rw [exec_start_idle hp, if_neg (by omega), if_neg (by omega)]
    rfl
  · intro hp hlen
    rw [exec_start_idle hp, if_pos hlen]
  · intro hp hlen hmsg
    rw [exec_start_idle hp, if_neg (by omega), if_pos hmsg]

/-! ## Writes of the host port (R191, R193, R198, R199) -/

/-- While busy a write of LEN is dropped. -/
theorem writeLen_busy {s : State} (hp : s.phase ≠ Phase.idle) (x : BitVec 64) : writeLen s x = s :=
  if_pos ((busy_iff s).mpr hp)

/-- Settles O12: `writeLen` acts while idle only. -/
theorem writeLenReplacesHalf : Obligations.WriteLenReplacesHalf := by
  refine fun v => ⟨congrArg Except.ok (decodeHt_write Reg.lenLo v), congrArg Except.ok (decodeHt_write Reg.lenHi v),
    fun s => ⟨fun hp => ?_, fun hp => ?_⟩⟩
  · exact ⟨congrArg _ (writeLen_idle hp _), congrArg _ (writeLen_idle hp _)⟩
  · exact ⟨congrArg _ (writeLen_busy hp _), congrArg _ (writeLen_busy hp _)⟩

/-- Settles O13: a write to CMD of another value than START's is WR.CMD.RSVD. -/
theorem reservedCommandDoesNothing : Obligations.ReservedCommandDoesNothing := by
  refine fun v s hv => ⟨congrArg Except.ok ?_, rfl⟩
  exact (decodeHt_write Reg.cmd v).trans (if_neg hv)

/-- Settles O14: neither address is one of another row of R98. -/
theorem accessesWithNoFunction : Obligations.AccessesWithNoFunction := by
  refine ⟨fun addr v s ha => ⟨congrArg Except.ok (decodeHt_wrNop v ?_), rfl⟩,
    fun addr v s ha => ⟨congrArg Except.ok (decodeHt_rdZero v ?_), rfl⟩⟩
  · have hrows : ∀ a : BitVec 4, a = 0x1#4 ∨ 0x4 ≤ a.toNat → (a != 0#4 && a != 2#4 && a != 3#4) = true := by decide
    exact hrows addr ha
  · rcases ha with rfl | rfl | rfl <;> rfl

/-- A write of LEN returns no value, dropped or not. -/
theorem writeLen_reads (s : State) (x : BitVec 64) : (writeLen s x).reads = s.reads := by
  rcases writeLen_cases s x with h | ⟨-, h⟩ <;> rw [h]
  rfl

theorem reads_of_exec_start {s u : State} (h : exec .start s = .next u) : u.reads = s.reads := by
  by_cases hp : s.phase = Phase.idle
  · obtain ⟨-, rfl⟩ := exec_start_next hp h
    rfl
  · rw [exec_start_busy hp] at h
    cases h
    rfl

/-- A write returns no value. -/
theorem reads_of_exec_write {a : BitVec 4} {v : Word} {s t : State}
    (h : exec (decodeHt (htWord true a v)) s = .next t) : t.reads = s.reads := by
  rw [decodeHt_write] at h
  split at h
  · split at h
    · exact reads_of_exec_start h
    · cases h
      rfl
  · split at h
    · cases h
      exact writeLen_reads s _
    · split at h
      · cases h
        exact writeLen_reads s _
      · cases h
        rfl

/-- Settles O21: every other write is WR.NOP, and none of the writes adds to what was returned. -/
theorem onlyCmdAndLenWritesAct : Obligations.OnlyCmdAndLenWritesAct := by
  refine ⟨fun addr v s h0 h2 h3 => ?_, fun _ _ _ _ => reads_of_exec_write⟩
  have hrow : decodeHt (1#1 ++ addr ++ v) = .wrNop addr v := decodeHt_wrNop v (by simp [Instr.wf, h0, h2, h3])
  rw [hrow]
  rfl

/-- Settles O22: while busy a write has no effect, and a read only adds to what was returned. -/
theorem hostCannotDisturbRun : Obligations.HostCannotDisturbRun := by
  intro i s hf hp
  cases i <;> simp only [Instr.format, reduceCtorEq] at hf
  case start => exact .inl (exec_start_busy hp)
  case wrlenLo v => exact .inl (congrArg _ (writeLen_busy hp _))
  case wrlenHi v => exact .inl (congrArg _ (writeLen_busy hp _))
  case wrCmdRsvd => exact .inl rfl
  case wrNop => exact .inl rfl
  all_goals exact .inr ⟨_, rfl⟩

/-! ## Reads of the host port (R190, R194 to R198) -/

/-- The register a read of address `a` returns (R27). -/
def hostReg (s : State) (a : BitVec 4) : Word :=
  if a = Reg.status then statusWord s
  else if a = Reg.lenLo then lenLo s.len
  else if a = Reg.lenHi then lenHi s.len
  else if a = Reg.nblkLo then nblkLo s.i
  else if a = Reg.nblkHi then nblkHi s.i
  else if a.getLsbD 3 then s.digest[(a.extractLsb' 0 3).toNat]'((a.extractLsb' 0 3).isLt)
  else 0x00000000#32

/-- Every read returns the register its address names and changes nothing else. -/
theorem exec_read (a : BitVec 4) (v : Word) (s : State) :
    exec (decodeHt (htWord false a v)) s = .next (returnRead s (hostReg s a)) := by
  rw [decodeHt_read, hostReg]
  repeat' split
  all_goals rfl

/-- At the addresses {1, k} the map has the words of DIGEST, as the decoder's row RDDIG reads them. -/
theorem hostReg_digest (s : State) (k : BitVec 3) : hostReg s (Reg.digest k) = s.digest[k.toNat]'(k.isLt) := by
  have h := (exec_read (Reg.digest k) 0#32 s).symm
  rw [decodeHt_rddig] at h
  exact (List.cons.inj (congrArg State.reads (Host.Outcome.next.inj h))).1

/-- NBLK_HI has eight zeros above I[55:32] (R33). -/
theorem nblkHi_eq (i : BitVec 56) : nblkHi i = 0#8 ++ i.extractLsb' 32 24 :=
  BitVec.setWidth_eq_append (by decide)

/-- The address 8 + k is {1, k} (R27). -/
theorem eq_digest_of_toNat {a : BitVec 4} {k : Nat} (hk : k < 8) (ha : a.toNat = 8 + k) :
    a = Reg.digest (BitVec.ofNatLT k hk) :=
  BitVec.eq_of_toNat_eq (by rw [ha, toNat_append_eq_mul_add]; rfl)

/-- Settles O20: the register is `hostReg`'s, whose clauses are the map's. -/
theorem everyReadFollowsRegisterMap : Obligations.EveryReadFollowsRegisterMap := by
  intro addr v s
  refine ⟨hostReg s addr, exec_read addr v s, fun h => h ▸ rfl, fun h => h ▸ rfl, fun h => h ▸ rfl, fun h => h ▸ rfl,
    fun h => h ▸ rfl, fun h => h ▸ nblkHi_eq s.i, fun h => h.elim (fun h => h ▸ rfl) (fun h => h ▸ rfl),
    fun k hk ha => ?_⟩
  rw [eq_digest_of_toNat hk ha, hostReg_digest]
  rfl

/-- Bits of a register as the number they are. -/
theorem extractLsb'_eq_ofNat {w : Nat} (x : BitVec w) (lo n : Nat) :
    x.extractLsb' lo n = BitVec.ofNat n (x.toNat / 2 ^ lo) := by
  rw [← Nat.shiftRight_eq_div_pow]
  rfl

theorem extractLsb'_zero_eq_ofNat_mod {w : Nat} (x : BitVec w) (n : Nat) :
    x.extractLsb' 0 n = BitVec.ofNat n (x.toNat % 2 ^ n) :=
  BitVec.eq_of_toNat_eq (by simp)

/-- I[55:32] as a number: the quotient fits 24 bits, so the zeros above it change nothing. -/
theorem nblkHi_eq_ofNat (i : BitVec 56) : nblkHi i = BitVec.ofNat 32 (i.toNat / 2 ^ 32) := by
  have hq : i.toNat / 2 ^ 32 < 2 ^ 24 := by omega
  rw [nblkHi, extractLsb'_eq_ofNat]
  refine BitVec.eq_of_toNat_eq ?_
  rw [BitVec.toNat_setWidth, BitVec.toNat_ofNat, BitVec.toNat_ofNat, Nat.mod_eq_of_lt hq]

/-- Settles O17: the halves are the quotient and the remainder by 2^32. -/
theorem readLenReturnsHalves : Obligations.ReadLenReturnsHalves := by
  refine ⟨fun v => ⟨congrArg Except.ok (decodeHt_read Reg.lenLo v), congrArg Except.ok (decodeHt_read Reg.lenHi v)⟩,
    fun s => ?_⟩
  rw [← extractLsb'_zero_eq_ofNat_mod, ← extractLsb'_eq_ofNat]
  exact ⟨rfl, rfl⟩

/-- Settles O18: the low half as in O17, the high bits by `nblkHi_eq_ofNat`. -/
theorem readNblkReturnsBlockCounter : Obligations.ReadNblkReturnsBlockCounter := by
  refine ⟨fun v => ⟨congrArg Except.ok (decodeHt_read Reg.nblkLo v), congrArg Except.ok (decodeHt_read Reg.nblkHi v)⟩,
    fun s => ?_⟩
  rw [← extractLsb'_zero_eq_ofNat_mod, ← nblkHi_eq_ofNat]
  exact ⟨rfl, rfl⟩

/-- Settles O19: RDDIG k is the read of address 8 + k. -/
theorem readDigestReturnsWord : Obligations.ReadDigestReturnsWord :=
  ⟨fun k v => congrArg Except.ok (decodeHt_rddig k v), fun _ _ => rfl⟩

theorem busy_eq_decide (s : State) : busy s = decide (s.phase ≠ Phase.idle) :=
  Bool.eq_iff_iff.mpr ((busy_iff s).trans decide_eq_true_iff.symm)

/-- The bits of STATUS: BUSY, DONE, and zeros above (R29). -/
theorem statusWord_getLsbD (s : State) (k : Nat) :
    (statusWord s).getLsbD k = if k = 0 then busy s else if k = 1 then s.done else false := by
  refine (BitVec.getLsbD_append (x := 0#30 ++ BitVec.ofBool s.done)).trans ?_
  rw [BitVec.getLsbD_append, BitVec.getLsbD_ofBool, BitVec.getLsbD_ofBool, BitVec.getLsbD_zero]
  match k with
  | 0 => rfl
  | 1 => rfl
  | k + 2 => rfl

/-- Settles O15, bit by bit. -/
theorem readStatusReturnsFlags : Obligations.ReadStatusReturnsFlags := by
  refine ⟨fun v => congrArg Except.ok (decodeHt_read Reg.status v),
    fun s => ⟨statusWord s, rfl, ?_, ?_, fun k hk => ?_⟩⟩
  · exact (statusWord_getLsbD s 0).trans (busy_eq_decide s)
  · exact statusWord_getLsbD s 1
  · rw [statusWord_getLsbD, if_neg (by omega), if_neg (by omega)]

/-! ## IDLE (R200, R232) -/

/-- Settles O42: code 0x000 is (IDLE, 0), which is IDLE's only position. -/
theorem idleKeepsAllState : Obligations.IdleKeepsAllState := by
  have hidle : decodeUop 0x000#10 = .ok .idle := decodeUop_append Phase.idle 0#6
  refine ⟨hidle, fun _ => rfl, fun s hturns hp ht => ?_⟩
  have hcode : uopCode s = 0x000#10 := by
    rw [uopCode, hp, ht]
    rfl
  rw [step_of_turns_nil hturns, hcode, runCode_uop hidle]
  rfl

/-! ## The successor of a position (R201) -/

@[simp] theorem advance_i (s : State) (p q : BitVec 4) (k k0 : BitVec 6) : (advance s p k q k0).i = s.i := by
  rw [advance_eq]

/-- Inside a phase that counts up to 63 the index goes one up, and at 63 the next phase begins. -/
theorem successor_of_advance (s : State) (p q : BitVec 4) (k k0 : BitVec 6) :
    (k.toNat ≤ 62 → (advance s p k q k0).phase = p ∧ (advance s p k q k0).t.toNat = k.toNat + 1) ∧
    (k = 63#6 → (advance s p k q k0).phase = q ∧ (advance s p k q k0).t = k0) := by
  refine ⟨fun hk => ?_, fun hk => ?_⟩
  · rw [advance_lt (by omega)]
    exact ⟨rfl, toNat_t_succ (by omega)⟩
  · rw [advance_last (by simp [hk])]
    exact ⟨rfl, rfl⟩

/-- MSX.LOAD counts up to 15 and goes on at (EXP, 16). -/
theorem successor_of_msxLoad {s u : State} (ht : s.t.toNat < 16)
    (h : UopEffect s (.msxLoad (s.t.extractLsb' 0 4)) u) :
    (s.t.toNat ≤ 14 → u.phase = Phase.load ∧ u.t.toNat = s.t.toNat + 1) ∧
    (s.t = 15#6 → u.phase = Phase.exp ∧ u.t = 16#6) ∧ u.i = s.i := by
  cases h
  rw [toNat_extract_load ht, loadIdx_extract ht]
  refine ⟨fun hk => ?_, fun hk => ?_, rfl⟩
  · have hlt : s.t.toNat < 15 := by omega
    simp only [hlt, if_true, setPos_phase, setPos_t]
    exact ⟨trivial, toNat_t_succ (by omega)⟩
  · simp [hk]

/-- Settles O43, operation by operation: in each phase the clauses of the other phases are void. -/
theorem successorOfEveryPosition : Obligations.SuccessorOfEveryPosition := by
  intro s u i hd h
  have heff := uopEffect_of_exec (decodeUop_format hd) h
  rcases decodeUop_cases hd with ⟨hp, ht, rfl⟩ | ⟨hp, -, rfl⟩ | ⟨hp, rfl⟩ | ⟨hp, ht, rfl⟩ | ⟨hp, -, rfl⟩ |
    ⟨hp, -, rfl⟩ | ⟨hp, rfl⟩ | ⟨hp, -, rfl⟩ | ⟨hp, -, rfl⟩
  on_goal 4 => simpa [hp] using successor_of_msxLoad ht heff
  all_goals cases heff
  case padByte => simpa [hp] using successor_of_advance _ _ _ _ _
  case msxExp => simpa [hp] using successor_of_advance _ _ _ _ _
  case creRound => simpa [hp] using successor_of_advance _ _ _ _ _
  case idle => simp [hp, ht]
  all_goals simp [hp]

/-! ## A run goes on: every position of a run has an operation, and it completes -/

/-- Every legal position has an operation. -/
theorem decodeUop_of_posLegal {p : BitVec 4} {t : BitVec 6} (h : posLegal p t = true) :
    ∃ i, decodeUop (p ++ t) = .ok i := by
  unfold posLegal at h
  split at h
  · rename_i hp
    simp only [Bool.or_eq_true, decide_eq_true_eq] at hp
    rcases hp with rfl | rfl
    · exact ⟨_, decodeUop_append Phase.padb t⟩
    · exact ⟨_, decodeUop_append Phase.round t⟩
  · split at h
    · rename_i hp
      subst hp
      exact ⟨_, (decodeUop_append Phase.load t).trans (if_pos (of_decide_eq_true h))⟩
    · split at h
      · rename_i hp
        subst hp
        exact ⟨_, (decodeUop_append Phase.exp t).trans (if_pos (of_decide_eq_true h))⟩
      · split at h
        · rename_i hload hexp hle
          obtain rfl := of_decide_eq_true h
          have hzero : ∀ p : BitVec 4, p ≠ Phase.exp → p.toNat ≤ 8 → (decodeUop (p ++ 0#6)).isOk = true := by
            decide
          have hok := hzero p hexp hle
          cases hd : decodeUop (p ++ 0#6) with
          | ok i => exact ⟨i, rfl⟩
          | error e => simp [hd, Except.isOk, Except.toBool] at hok
        · cases h

/-- The operation of a position that meets the control invariant completes: PAD.BYTE is inside its domain, and MSX.EXP
has an index from 16 on. -/
theorem exists_exec_of_controlInv {s : State} (hs : ControlInv s) :
    ∃ i u, decodeUop (s.phase ++ s.t) = .ok i ∧ exec i s = .next u := by
  obtain ⟨hpos, -, -, hdom, -, hlt, -⟩ := hs
  obtain ⟨i, hd⟩ := decodeUop_of_posLegal hpos
  refine ⟨i, ?_⟩
  rcases decodeUop_cases hd with ⟨-, -, rfl⟩ | ⟨-, -, rfl⟩ | ⟨hp, rfl⟩ | ⟨-, -, rfl⟩ | ⟨-, ht, rfl⟩ | ⟨-, -, rfl⟩ |
    ⟨-, rfl⟩ | ⟨-, -, rfl⟩ | ⟨-, -, rfl⟩
  on_goal 3 =>
    have hbusy : busy s = true := (busy_iff s).mpr (by simp [hp])
    exact ⟨_, hd, exec_padByte_next ⟨hdom hbusy, hlt (by simp [hp, inBlock])⟩⟩
  on_goal 3 => exact ⟨_, hd, exec_msxLoad _ s⟩
  on_goal 3 => exact ⟨_, hd, exec_msxExp ht s⟩
  on_goal 5 => exact ⟨_, hd, exec_creFfwd s⟩
  all_goals exact ⟨_, hd, rfl⟩

/-! ## How many micro-operations are left (R201, R202) -/

/-- At (INIT, 0) the whole run is left: CRE.INIT, NB blocks of 194, and DIG.OUT. -/
theorem remaining_of_init {s : State} (hp : s.phase = Phase.init) :
    remaining s = 2 + 194 * nBlocks s.len.toNat := by
  simp [remaining, hp]

theorem remaining_of_out {s : State} (hp : s.phase = Phase.out) : remaining s = 1 := by
  simp [remaining, hp]

theorem ne_of_inBlock {p : BitVec 4} (hin : inBlock p = true) : p ≠ Phase.idle ∧ p ≠ Phase.init ∧ p ≠ Phase.out := by
  refine ⟨?_, ?_, ?_⟩ <;> rintro rfl <;> cases hin

theorem remaining_of_inBlock {s : State} (hin : inBlock s.phase = true) :
    remaining s = 194 * (nBlocks s.len.toNat - s.i.toNat) + 1 - doneInBlock s.phase s.t := by
  obtain ⟨hidle, hinit, hout⟩ := ne_of_inBlock hin
  rw [remaining, if_neg hidle, if_neg hinit, if_neg hout]

theorem doneInBlock_padb (t : BitVec 6) : doneInBlock Phase.padb t = t.toNat := rfl
theorem doneInBlock_load (t : BitVec 6) : doneInBlock Phase.load t = 64 + t.toNat := rfl
theorem doneInBlock_exp (t : BitVec 6) : doneInBlock Phase.exp t = 64 + t.toNat := rfl
theorem doneInBlock_seed (t : BitVec 6) : doneInBlock Phase.seed t = 128 := rfl
theorem doneInBlock_round (t : BitVec 6) : doneInBlock Phase.round t = 129 + t.toNat := rfl
theorem doneInBlock_ffwd (t : BitVec 6) : doneInBlock Phase.ffwd t = 193 := rfl

/-- A block takes 194 micro-operations, so before its last one at most 193 are done. -/
theorem doneInBlock_le (p : BitVec 4) (t : BitVec 6) : doneInBlock p t ≤ 193 := by
  have := t.isLt
  unfold doneInBlock
  repeat' split
  all_goals omega

/-- The phase of a unit that meets the control invariant is IDLE, INIT, one of the per-block loop, or OUT. -/
theorem phase_cases {s : State} (hs : ControlInv s) :
    s.phase = Phase.idle ∨ s.phase = Phase.init ∨ inBlock s.phase = true ∨ s.phase = Phase.out := by
  obtain ⟨i, hd⟩ := decodeUop_of_posLegal hs.1
  rcases decodeUop_cases hd with ⟨hp, -⟩ | ⟨hp, -⟩ | ⟨hp, -⟩ | ⟨hp, -⟩ | ⟨hp, -⟩ | ⟨hp, -⟩ | ⟨hp, -⟩ | ⟨hp, -⟩ |
    ⟨hp, -⟩ <;> simp [hp, inBlock]

/-- Nothing is left exactly when the unit is idle. -/
theorem remaining_eq_zero_iff {s : State} (hs : ControlInv s) : remaining s = 0 ↔ s.phase = Phase.idle := by
  rcases phase_cases hs with hp | hp | hin | hp
  · simp [remaining, hp]
  · simp [remaining_of_init hp, hp]
  · obtain ⟨-, -, -, -, -, hlt, -⟩ := hs
    have hi := hlt hin
    have hdone := doneInBlock_le s.phase s.t
    rw [remaining_of_inBlock hin]
    exact iff_of_false (by omega) (ne_of_inBlock hin).1
  · simp [remaining_of_out hp, hp]

/-- A step inside a block counts one more micro-operation of the block, so one less is left. -/
theorem remaining_stay_inBlock {s u : State} (hs : ControlInv s) (hin : inBlock s.phase = true)
    (hin' : inBlock u.phase = true) (hlen : u.len = s.len) (hi : u.i = s.i)
    (hcount : doneInBlock u.phase u.t = doneInBlock s.phase s.t + 1) : remaining u + 1 = remaining s := by
  obtain ⟨-, -, -, -, -, hlt, -⟩ := hs
  have hlt := hlt hin
  have hdone := doneInBlock_le u.phase u.t
  rw [remaining_of_inBlock hin, remaining_of_inBlock hin', hlen, hi]
  omega

/-- The same where the step counts the index up to 63 and then goes to the next phase. -/
theorem remaining_advance {s s1 : State} {p q : BitVec 4} {k0 : BitVec 6} (hs : ControlInv s) (hp : s.phase = p)
    (hin : inBlock p = true) (hq : inBlock q = true) (hlen : s1.len = s.len) (hi : s1.i = s.i)
    (hnext : s.t.toNat < 63 → doneInBlock p (s.t + 1#6) = doneInBlock p s.t + 1)
    (hlast : s.t.toNat = 63 → doneInBlock q k0 = doneInBlock p s.t + 1) :
    remaining (advance s1 p s.t q k0) + 1 = remaining s := by
  by_cases ht : s.t.toNat < 63
  · rw [advance_lt ht]
    exact remaining_stay_inBlock hs (hp ▸ hin) hin hlen hi (hp ▸ hnext ht)
  · rw [advance_last ht]
    exact remaining_stay_inBlock hs (hp ▸ hin) hq hlen hi (hp ▸ hlast (by omega))

/-- CRE.INIT leaves the whole of block 0 and of those after it. -/
theorem remaining_creInit {s : State} (hs : ControlInv s) (hp : s.phase = Phase.init) (h : Words8) :
    remaining (setPos (setH s h) Phase.padb 0#6) + 1 = remaining s := by
  obtain ⟨-, -, -, -, hinit, -⟩ := hs
  rw [remaining_of_init hp, remaining_of_inBlock rfl, setPos_i, setH_i, hinit hp]
  change 194 * (nBlocks s.len.toNat - 0) + 1 - 0 + 1 = _
  omega

/-- MSX.LOAD takes one off: LOAD ends at 16 words formed, the count at which EXP begins. -/
theorem remaining_msxLoad {s : State} (hs : ControlInv s) (hp : s.phase = Phase.load) (ht : s.t.toNat < 16) (x : Word) :
    remaining (setPos (setW s s.t x) (if s.t.toNat < 15 then Phase.load else Phase.exp)
      (if s.t.toNat < 15 then s.t + 1#6 else 16#6)) + 1 = remaining s := by
  have hin : inBlock s.phase = true := by simp [hp, inBlock]
  split
  · refine remaining_stay_inBlock hs hin rfl rfl rfl ?_
    rw [hp, setPos_phase, setPos_t, doneInBlock_load, doneInBlock_load, toNat_t_succ (by omega)]
    rfl
  · have hlast : s.t.toNat = 15 := by omega
    refine remaining_stay_inBlock hs hin rfl rfl rfl ?_
    rw [hp, setPos_phase, setPos_t, doneInBlock_exp, doneInBlock_load, hlast]
    rfl

/-- CRE.FFWD is the last micro-operation of its block (R201, R202). -/
theorem remaining_creFfwd {s : State} (hs : ControlInv s) (hp : s.phase = Phase.ffwd) (h : Words8) :
    remaining (setPos (setI (setH s h) (s.i + 1#56))
      (if s.i.toNat + 1 < nBlocks s.len.toNat then Phase.padb else Phase.out) 0#6) + 1 = remaining s := by
  have hin : inBlock s.phase = true := by simp [hp, inBlock]
  have hsucc := toNat_i_succ hs
  obtain ⟨-, -, -, -, -, hlt, -⟩ := hs
  have hi := hlt hin
  rw [remaining_of_inBlock hin, hp, doneInBlock_ffwd]
  split
  · rw [remaining_of_inBlock rfl, setPos_i, setI_i, hsucc]
    change 194 * (nBlocks s.len.toNat - (s.i.toNat + 1)) + 1 - 0 + 1 = _
    omega
  · rw [remaining_of_out rfl]
    omega

/-- Every micro-operation of a run takes one off the number left. -/
theorem remaining_of_uop {s u : State} {i : Instr} (hs : ControlInv s) (hb : s.phase ≠ Phase.idle)
    (hd : decodeUop (s.phase ++ s.t) = .ok i) (h : UopEffect s i u) : remaining u + 1 = remaining s := by
  rcases decodeUop_cases hd with ⟨hp, -, rfl⟩ | ⟨hp, -, rfl⟩ | ⟨hp, rfl⟩ | ⟨hp, ht, rfl⟩ | ⟨hp, -, rfl⟩ |
    ⟨hp, -, rfl⟩ | ⟨hp, rfl⟩ | ⟨hp, -, rfl⟩ | ⟨hp, -, rfl⟩ <;> cases h
  case idle => exact absurd hp hb
  case creInit => exact remaining_creInit hs hp _
  case padByte =>
    refine remaining_advance hs hp rfl rfl rfl rfl (fun hl => ?_) (fun hl => ?_)
    · exact toNat_t_succ hl
    · rw [doneInBlock_load, doneInBlock_padb, hl]
      rfl
  case msxLoad =>
    rw [toNat_extract_load ht, loadIdx_extract ht]
    exact remaining_msxLoad hs hp ht _
  case msxExp =>
    refine remaining_advance hs hp rfl rfl rfl rfl (fun hl => ?_) (fun hl => ?_)
    · rw [doneInBlock_exp, doneInBlock_exp, toNat_t_succ hl, Nat.add_assoc]
    · rw [doneInBlock_seed, doneInBlock_exp, hl]
  case creSeed =>
    refine remaining_stay_inBlock hs (by simp [hp, inBlock]) rfl rfl rfl ?_
    rw [hp]
    rfl
  case creRound =>
    refine remaining_advance hs hp rfl rfl rfl rfl (fun hl => ?_) (fun hl => ?_)
    · rw [doneInBlock_round, doneInBlock_round, toNat_t_succ hl, Nat.add_assoc]
    · rw [doneInBlock_ffwd, doneInBlock_round, hl]
  case creFfwd => exact remaining_creFfwd hs hp _
  case digOut =>
    rw [remaining_of_out hp]
    rfl

/-- The state with its next pending move taken off, where there is one. -/
abbrev dropTurn (s : State) : State := { s with turns := s.turns.tail }

/-- The step of a run in which the sequencer moves next: the position's micro-operation, which completes. -/
theorem step_of_sequencer {s : State} (hs : ControlInv s)
    (ht : s.turns = [] ∨ ∃ rest, s.turns = .sequencer :: rest) :
    ∃ i u, decodeUop (s.phase ++ s.t) = .ok i ∧ UopEffect (dropTurn s) i u ∧ step s = .next u := by
  obtain ⟨i, u, hd, hu⟩ := exists_exec_of_controlInv (s := dropTurn s) hs
  refine ⟨i, u, hd, uopEffect_of_exec (decodeUop_format hd) hu, ?_⟩
  have hstep : step s = runCode (.uop (uopCode s)) (dropTurn s) := by
    rcases ht with hnil | ⟨rest, hseq⟩
    · rw [step_of_turns_nil hnil, dropTurn, hnil, List.tail_nil, ← hnil]
    · rw [step_of_turns_sequencer hseq, dropTurn, hseq, List.tail_cons]
  rw [hstep, uopCode, uopWord, runCode_uop hd, hu]

/-- Settles O45: the step is the position's micro-operation, which takes one off, and START leaves the count of
(INIT, 0). -/
theorem runTakesExactStepCount : Obligations.RunTakesExactStepCount := by
  refine ⟨fun s hs hb ht => ?_, fun s u hp h => ?_⟩
  · obtain ⟨i, u, hd, heff, hstep⟩ := step_of_sequencer hs ht
    exact ⟨u, hstep, remaining_of_uop (s := dropTurn s) hs hb hd heff,
      remaining_eq_zero_iff (ControlInv.of_uop (s := dropTurn s) hs hd heff)⟩
  · obtain ⟨-, rfl⟩ := exec_start_next hp h
    exact remaining_of_init rfl

/-! ## A whole run (R203) -/

/-- What DIG.OUT leaves of a run over the first `len` bytes of `m`: idle, done, and the digest latched. -/
structure RunEnded (m : Memory) (len : BitVec 64) (u : State) : Prop where
  phase : u.phase = Phase.idle
  t : u.t = 0#6
  done : u.done = true
  i : u.i.toNat = nBlocks len.toNat
  digest : u.digest = refDigest m len.toNat
  h : u.h = u.digest
  len : u.len = len
  msg : u.msg = m

/-- At (OUT, 0) H is the digest and I is NB. -/
theorem h_eq_refDigest_of_out {s : State} (hs : RunInv s) (hp : s.phase = Phase.out) :
    s.h = refDigest s.msg s.len.toNat ∧ s.i.toNat = nBlocks s.len.toNat := by
  obtain ⟨⟨-, -, -, -, -, -, hout, -⟩, hh, -⟩ := hs
  refine ⟨?_, hout hp⟩
  rw [hh (.inr hp), curChain, hout hp, refDigest]

/-- Settles O58: DIG.OUT copies H. -/
theorem digOutGivesDigestOfMessage : Obligations.DigOutGivesDigestOfMessage := by
  intro s hs hp
  obtain ⟨hdigest, hi⟩ := h_eq_refDigest_of_out hs hp
  exact ⟨_, rfl, hdigest, rfl, hi⟩

/-- Only DIG.OUT takes a unit that is not idle to IDLE. -/
theorem eq_digOut_of_idle {s u : State} {i : Instr} (h : UopEffect s i u) (hb : s.phase ≠ Phase.idle)
    (hu : u.phase = Phase.idle) : i = .digOut := by
  cases h with
  | idle => exact absurd hu hb
  | digOut => rfl
  | _ => simp [advance_eq, ite_eq_iff] at hu

/-- A run that reaches IDLE has ended. -/
theorem runEnded_of_uop {s u : State} {i : Instr} (hs : RunInv s) (hb : s.phase ≠ Phase.idle)
    (hd : decodeUop (s.phase ++ s.t) = .ok i) (h : UopEffect s i u) (hu : u.phase = Phase.idle) :
    RunEnded s.msg s.len u := by
  obtain rfl := eq_digOut_of_idle h hb hu
  have hp : s.phase = Phase.out ∧ s.t = 0#6 := by simpa using decodeUop_cases hd
  obtain ⟨hdigest, hi⟩ := h_eq_refDigest_of_out hs hp.1
  cases h
  exact ⟨rfl, rfl, rfl, hi, hdigest, rfl, rfl, rfl⟩

/-- A run goes on for exactly the number of micro-operations left, and then it has ended. -/
theorem run_of_remaining {n : Nat} {s : State} (hs : RunInv s) (ht : s.turns = [])
    (hend : s.phase = Phase.idle → RunEnded s.msg s.len s) (hn : remaining s = n) :
    ∃ u, core.run n s = .next u ∧ RunEnded s.msg s.len u := by
  induction n generalizing s with
  | zero => exact ⟨s, run_zero s, hend ((remaining_eq_zero_iff hs.1).mp hn)⟩
  | succ n ih =>
    have hb : s.phase ≠ Phase.idle := fun hp => by
      rw [(remaining_eq_zero_iff hs.1).mpr hp] at hn
      cases hn
    obtain ⟨i, u, hd, heff, hstep⟩ := step_of_sequencer hs.1 (.inl ht)
    have hended : u.phase = Phase.idle → RunEnded (dropTurn s).msg (dropTurn s).len u :=
      runEnded_of_uop (s := dropTurn s) hs hb hd heff
    obtain ⟨hlen, hmsg, -, hturns, -⟩ := heff.frame
    have hleft : remaining u + 1 = remaining s := remaining_of_uop (s := dropTurn s) hs.1 hb hd heff
    have hnil : u.turns = [] := hturns.trans (congrArg List.tail ht)
    rw [← hmsg, ← hlen] at hended
    obtain ⟨v, hrun, hv⟩ := ih (RunInv.of_uop (s := dropTurn s) hs hd heff) hnil hended (by omega)
    rw [hmsg, hlen] at hv
    exact ⟨v, (run_next hstep).trans hrun, hv⟩

/-- Settles O59: START begins a run that meets the data invariant, which no register of the state before enters, and
the run goes on for the micro-operations left. -/
theorem runComputesDigest : Obligations.RunComputesDigest := by
  intro s s1 hs ht hp h
  obtain ⟨hdom, rfl⟩ := exec_start_next hp h
  obtain ⟨u, hrun, hend⟩ := run_of_remaining (runInv_of_no_data (controlInv_start hs hdom) (.inr rfl)) ht
    (fun hidle => by cases hidle) (remaining_of_init rfl)
  exact ⟨u, hrun, hend.phase, hend.t, hend.done, hend.i, hend.digest, hend.h, hend.len, hend.msg⟩

end Sys2Proof.Machine
end

section
/-! SUPPORT. Proof of the exceptions family (60_exceptions.md R224): when a host transaction and a micro-operation
commute. -/

namespace Sys2Proof.Machine

/-! ## A micro-operation does not look at what reads returned -/

theorem advance_returnRead (s : State) (x : Word) (p q : BitVec 4) (k k0 : BitVec 6) :
    advance (returnRead s x) p k q k0 = returnRead (advance s p k q k0) x := by
  simp only [advance_eq, returnRead]

theorem execPadByte_returnRead (j : BitVec 6) (s : State) (x : Word) :
    execPadByte j (returnRead s x) = (execPadByte j s).andThen fun t => .next (returnRead t x) := by
  change (if PadDomain s then (padbyte s j).andThen _ else _) = _
  unfold execPadByte
  split_ifs
  · cases padbyte s j with
    | next b => exact congrArg Host.Outcome.next (advance_returnRead (setBlk s j b) x _ _ _ _)
    | fault e => rfl
    | refused e => rfl
  · rfl

theorem execMsxLoad_returnRead (k : BitVec 4) (s : State) (x : Word) :
    execMsxLoad k (returnRead s x) = (execMsxLoad k s).andThen fun t => .next (returnRead t x) := by
  unfold execMsxLoad
  split_ifs <;> rfl

theorem execMsxExp_returnRead (k : BitVec 6) (s : State) (x : Word) :
    execMsxExp k (returnRead s x) = (execMsxExp k s).andThen fun t => .next (returnRead t x) := by
  unfold execMsxExp
  split_ifs
  · rfl
  · exact congrArg Host.Outcome.next (advance_returnRead (setW s k _) x _ _ _ _)

theorem execCreFfwd_returnRead (s : State) (x : Word) :
    execCreFfwd (returnRead s x) = (execCreFfwd s).andThen fun t => .next (returnRead t x) := by
  change (if s.i.toNat + 1 < nBlocks s.len.toNat then _ else _) = _
  unfold execCreFfwd
  split_ifs <;> rfl

/-- A read answered before a micro-operation is the same as one answered with the same word after it, also where the
micro-operation stops. -/
theorem exec_uop_returnRead {u : Instr} (hu : u.format = .uop) (s : State) (x : Word) :
    exec u (returnRead s x) = Result.andThen (exec u s) fun t => .next (returnRead t x) := by
  cases u <;> simp only [Instr.format, reduceCtorEq] at hu
  case padByte j => exact execPadByte_returnRead j s x
  case msxLoad k => exact execMsxLoad_returnRead k s x
  case msxExp k => exact execMsxExp_returnRead k s x
  case creRound r => exact congrArg Host.Outcome.next (advance_returnRead (setV s _) x _ _ _ _)
  case creFfwd => exact execCreFfwd_returnRead s x
  all_goals rfl

/-! ## What a micro-operation leaves for the host to read -/

section Uop
variable {u : Instr} {s t : State} (hu : u.format = .uop) (h : exec u s = .next t)
include hu h

/-- Only DIG.OUT ends a run. -/
theorem phase_ne_idle_of_uop (hout : u ≠ .digOut) (hp : s.phase ≠ Phase.idle) : t.phase ≠ Phase.idle := by
  cases uopEffect_of_exec hu h with
  | idle => exact hp
  | digOut => exact absurd rfl hout
  | padByte | msxExp | creRound =>
    rw [advance_eq]
    dsimp only
    split <;> decide
  | msxLoad | creFfwd =>
    rw [setPos_phase]
    split <;> decide
  | _ => simp

theorem len_of_uop : t.len = s.len := (uopEffect_of_exec hu h).frame.1

theorem i_of_uop (hffwd : u ≠ .creFfwd) : t.i = s.i := by
  obtain ⟨-, -, -, -, hi, -⟩ := registerWriters u s t h
  by_contra hne
  rcases hi hne with rfl | rfl
  · cases hu
  · exact hffwd rfl

theorem done_of_uop (hout : u ≠ .digOut) : t.done = s.done := by
  obtain ⟨-, -, -, -, -, hdone, -⟩ := registerWriters u s t h
  by_contra hne
  rcases hdone hne with rfl | rfl
  · cases hu
  · exact hout rfl

omit hu in
theorem digest_of_exec (hout : u ≠ .digOut) : t.digest = s.digest := by
  obtain ⟨-, -, -, -, -, -, -, hdigest, -⟩ := registerWriters u s t h
  by_contra hne
  exact hout (hdigest hne)

/-- During a run STATUS reads the same until DIG.OUT. -/
theorem statusWord_of_uop (hout : u ≠ .digOut) (hp : s.phase ≠ Phase.idle) : statusWord t = statusWord s := by
  have hbusy : busy t = busy s :=
    ((busy_iff t).mpr (phase_ne_idle_of_uop hu h hout hp)).trans ((busy_iff s).mpr hp).symm
  rw [statusWord, statusWord, done_of_uop hu h hout, hbusy]

end Uop

/-! ## The two ways a host transaction commutes with a micro-operation (R224) -/

/-- The same stop, and the same next value for each value reached, make the same chain. -/
theorem andThen_congr {α β : Type} {r : Result α} {f g : α → Result β} (h : ∀ a, r = .next a → f a = g a) :
    r.andThen f = r.andThen g := by
  cases r with
  | next a => exact h a rfl
  | fault e => rfl
  | refused e => rfl

theorem andThen_next_right {α : Type} (r : Result α) : (r.andThen fun a => .next a) = r := by
  cases r <;> rfl

/-- A write without effect both before and after an operation commutes with it. -/
theorem commute_of_noEffect {w u : Instr} {s : State} (hs : exec w s = .next s)
    (ht : ∀ t, exec u s = .next t → exec w t = .next t) :
    Result.andThen (exec w s) (exec u) = Result.andThen (exec u s) (exec w) := by
  rw [hs, andThen_next, andThen_congr ht, andThen_next_right]

/-- A write that the unit drops while busy commutes with a micro-operation that does not end the run. -/
theorem commute_of_droppedWhileBusy {w u : Instr} {s : State} (hu : u.format = .uop) (hp : s.phase ≠ Phase.idle)
    (hout : u ≠ .digOut) (hw : ∀ t : State, t.phase ≠ Phase.idle → exec w t = .next t) :
    Result.andThen (exec w s) (exec u) = Result.andThen (exec u s) (exec w) :=
  commute_of_noEffect (hw s hp) fun t ht => hw t (phase_ne_idle_of_uop hu ht hout hp)

/-- A read commutes with a micro-operation that leaves what it returns. -/
theorem commute_of_sameAnswer {r u : Instr} {s : State} {f : State → Word} (hu : u.format = .uop)
    (hr : ∀ t, exec r t = .next (returnRead t (f t))) (hf : ∀ t, exec u s = .next t → f t = f s) :
    Result.andThen (exec r s) (exec u) = Result.andThen (exec u s) (exec r) := by
  rw [hr s, andThen_next, exec_uop_returnRead hu]
  refine andThen_congr fun t ht => ?_
  rw [hr t, hf t ht]

/-- Settles O23: while busy a write has no effect, and a read returns a register that only the excepted
micro-operation writes. -/
theorem hostAndSequencerCommute : Obligations.HostAndSequencerCommute := by
  intro h u s hh hu hp hout hffwd
  cases h <;> simp only [Instr.format, reduceCtorEq] at hh
  case start => exact commute_of_droppedWhileBusy hu hp (by simpa using hout) fun _ => exec_start_busy
  case wrlenLo v =>
    exact commute_of_droppedWhileBusy hu hp (by simpa using hout) fun _ ht => congrArg _ (writeLen_busy ht _)
  case wrlenHi v =>
    exact commute_of_droppedWhileBusy hu hp (by simpa using hout) fun _ ht => congrArg _ (writeLen_busy ht _)
  case wrCmdRsvd => exact commute_of_noEffect rfl fun _ _ => rfl
  case wrNop => exact commute_of_noEffect rfl fun _ _ => rfl
  case rdstat =>
    have hne : u ≠ .digOut := by simpa using hout
    exact commute_of_sameAnswer hu (fun _ => rfl) fun _ ht => statusWord_of_uop hu ht hne hp
  case rdlenLo => exact commute_of_sameAnswer hu (fun _ => rfl) fun _ ht => congrArg lenLo (len_of_uop hu ht)
  case rdlenHi => exact commute_of_sameAnswer hu (fun _ => rfl) fun _ ht => congrArg lenHi (len_of_uop hu ht)
  case rdnblkLo =>
    have hne : u ≠ .creFfwd := by simpa using hffwd
    exact commute_of_sameAnswer hu (fun _ => rfl) fun _ ht => congrArg nblkLo (i_of_uop hu ht hne)
  case rdnblkHi =>
    have hne : u ≠ .creFfwd := by simpa using hffwd
    exact commute_of_sameAnswer hu (fun _ => rfl) fun _ ht => congrArg nblkHi (i_of_uop hu ht hne)
  case rddig k =>
    have hne : u ≠ .digOut := by simpa using hout
    exact commute_of_sameAnswer hu (fun _ => rfl) fun _ ht =>
      congrArg (fun d : Words8 => d[k.toNat]'(k.isLt)) (digest_of_exec ht hne)
  case rdZero => exact commute_of_sameAnswer hu (fun _ => rfl) fun _ _ => rfl

end Sys2Proof.Machine
end

section
/-! SUPPORT. Proofs of the reset and hazards family (70_reset_and_hazards.md R250, R264): where a micro-operation leads
depends on the position, I and LEN only, and the reset event clears the control state. -/

namespace Sys2Proof.Machine

/-! ## Positions do not depend on data (R264) -/

/-- Two states are at the same position of the same run, whatever their message, datapath and environment hold. -/
def SamePosition (s1 s2 : State) : Prop :=
  s1.phase = s2.phase ∧ s1.t = s2.t ∧ s1.i = s2.i ∧ s1.len = s2.len

/-- The position `advance` leads to is given by its arguments, not by the state. -/
theorem samePosition_advance {s1 s2 : State} (p q : BitVec 4) (k k0 : BitVec 6) (hi : s1.i = s2.i)
    (hlen : s1.len = s2.len) : SamePosition (advance s1 p k q k0) (advance s2 p k q k0) := by
  simp only [advance_eq]
  exact ⟨rfl, rfl, hi, hlen⟩

/-- One micro-operation leads from the same position to the same position. CRE.FFWD alone looks at the state to choose
the next phase, and it looks at I and LEN. -/
theorem UopEffect.samePosition {i : Instr} {s1 s2 u1 u2 : State} (h1 : UopEffect s1 i u1)
    (h2 : UopEffect s2 i u2) (hs : SamePosition s1 s2) : SamePosition u1 u2 := by
  have ⟨_, _, hi, hlen⟩ := hs
  cases h1 with
  | idle =>
    cases h2
    exact hs
  | padByte | msxExp | creRound =>
    cases h2
    exact samePosition_advance _ _ _ _ hi hlen
  | creFfwd =>
    cases h2
    rw [hi, hlen]
    exact ⟨rfl, rfl, rfl, hlen⟩
  | _ =>
    cases h2
    exact ⟨rfl, rfl, hi, hlen⟩

/-- Settles O44: a micro-operation that completes has its effect, and the effect leads from the same position to the
same position. -/
theorem positionsDependOnLengthOnly : Obligations.PositionsDependOnLengthOnly := by
  intro i s1 s2 u1 u2 hf hp ht hi hlen h1 h2
  exact (uopEffect_of_exec hf h1).samePosition (uopEffect_of_exec hf h2) ⟨hp, ht, hi, hlen⟩

/-! ## The reset event (R250) -/

/-- A pending reset event is taken off the list and made; it never stops. -/
theorem step_of_turns_reset {s : State} {rest : List Turn} (ht : s.turns = .reset :: rest) :
    step s = .next (resetEvent { s with turns := rest }) := by
  simp only [step, nextMove, ht]

/-- Settles O53: the step makes the pending event, and the laws of `resetEvent` say what it clears and keeps. -/
theorem resetEventClearsControl : Obligations.ResetEventClearsControl := by
  intro s rest ht
  exact ⟨_, step_of_turns_reset ht, by simp⟩

end Sys2Proof.Machine
end
